-- ==== Sys2Proof/Word.lean ====
section
/-! DEFINITION. The word types of the block (00_scope.md R9, R10): bytes, 16-bit fields and 32-bit registers, all unsigned. -/

namespace Sys2Proof

/-- `u8` (R10): one byte of a buffer or of the wire. -/
abbrev Byte := BitVec 8

/-- `u16` (R10): an address, a count, a register value, a CRC, a transaction ID (R9). -/
abbrev Half := BitVec 16

/-- `u32` (R10): the width of every host-visible register and of a command word (R8, R80). -/
abbrev Word := BitVec 32

end Sys2Proof
end

