-- ==== Sys2Proof/Syntax.lean ====
section
/-! DEFINITION. The commands of the block: one constructor per row of the opcode map (30_encoding.md R82), with the operands that
R87 takes from the command word and no others. -/

namespace Sys2Proof

/-- A command (R82). IMM8, IMM16 and V are the operands of the formats FI8, FI16 and FV (R81, R87); "every other operand of a
command comes from state". -/
inductive Instr where
  | nop
  | crcInit
  | crcUpdate (imm : Byte)
  | crcSpanTx
  | crcSpanAcc
  | classify (imm : Byte)
  | setCount (imm : Half)
  | encodeReq
  | encodeRsp
  | encodeExc
  | decodeReq (v : Bool)
  | decodeRsp (v : Bool)
  | excTest (v : Bool)
  | rtuFrame
  | mbapFrame (imm : Half)
  | mbapDeframeReq
  | mbapDeframeRsp
  | openRtu
  | openTcp
  | close
  | sendRequest
  | sendResponse
  | sendException
  | awaitResponse
  | awaitRequest
deriving DecidableEq, Repr

end Sys2Proof
end

