-- ==== Sys2Proof/Config.lean ====
section
/-! DEFINITION. What an implementation fixes (the parameters of 00_scope.md R8, 70_reset_and_hazards.md R294), the shapes of the
channel's answers (44_connection.md R212), and the free values: constants with no body, so that no proof can see them. -/

namespace Sys2Proof

/-- The open parameters of R8, "fixed before reset" (R294). A state carries the ones it runs with; see log 3. -/
structure Params where
  /-- `TID_INIT`, the value loaded into the transaction counter by OPEN and by reset. -/
  tidInit : Half
  /-- `READ_LIMIT`, `none` or an integer of at least 1. -/
  readLimit : Option Nat
  /-- `ACC_CAP`, `none` or an integer of at least 8. -/
  accCap : Option Nat
  /-- `READ_TIMEOUT`, handed to the channel and measured by nobody in the block: an uninterpreted number (log 3). -/
  readTimeout : Nat
deriving DecidableEq, Repr

/-- What the channel may answer to `chan_read` (R212). The law that a `data` answer has 1 to `READ_CHUNK` bytes is `ReadAnswer.wf`. -/
inductive ReadAnswer where
  | data (bs : List Byte)
  | closed
  | timedOut
  | ioError
deriving DecidableEq, Repr, Inhabited

/-- What the channel may answer to `chan_write` (R212): everything delivered, or not. -/
inductive WriteAnswer where
  | ok
  | err
deriving DecidableEq, Repr, Inhabited

/-- A free read answer before its bytes are cut to `READ_CHUNK`: a `data` answer has a first byte, so it is never empty. -/
inductive FreeRead where
  | data (first : Byte) (rest : List Byte)
  | closed
  | timedOut
  | ioError
deriving DecidableEq, Repr, Inhabited

namespace Config

/-- `READ_CHUNK`: "largest number of bytes one channel read may return", 1024 in this spec (R8, D27). -/
def readChunk : Nat := 1024

/-- `TID_INIT` (R8): OPEN, any 16-bit value. -/
opaque tidInit : Half

/-- `READ_LIMIT` (R8): OPEN, `none` or an integer of at least 1. -/
opaque readLimit : Option (Subtype fun n : Nat => 1 ≤ n)

/-- `ACC_CAP` (R8): OPEN, `none` or an integer of at least 8. -/
opaque accCap : Option (Subtype fun n : Nat => 8 ≤ n)

/-- `READ_TIMEOUT` (R8): OPEN. -/
opaque readTimeout : Nat

/-- The parameters the reset state runs with: any that R8 allows. -/
def params : Params :=
  { tidInit := tidInit, readLimit := readLimit.map (·.val), accCap := accCap.map (·.val), readTimeout := readTimeout }

/-- FREE VALUE: the channel's `k`-th read answer when no answer is listed in the state ("the model takes every answer as
possible at every request", R212; log 2). -/
opaque freeRead : Nat → FreeRead

/-- FREE VALUE: the channel's `k`-th write answer when no answer is listed in the state (R212; log 2). -/
opaque freeWrite : Nat → WriteAnswer

/-- FREE VALUE: what a 32-bit register shows for a length or an offset of 2^32 or more, which the spec does not state (log 5). -/
opaque freeWideLength : Nat → Word

end Config

/-- A free read answer in the shape R212 gives: a `data` answer carries 1 to `READ_CHUNK` bytes, and every such answer is one. -/
def FreeRead.toAnswer : FreeRead → ReadAnswer
  | .data first rest => .data (first :: rest.take (Config.readChunk - 1))
  | .closed => .closed
  | .timedOut => .timedOut
  | .ioError => .ioError

end Sys2Proof
end

