-- ==== Sys2Proof/WellFormed.lean ====
section
/-! DEFINITION. Well-formedness: of a command word (30_encoding.md R80), of a command, of the parameters (00_scope.md R8) and of a
channel answer (44_connection.md R212). -/

namespace Sys2Proof

/-- The bits no format uses: "bits 11:9 and 15:13 are always reserved and must be 0" (R80). -/
def reservedBits : Word := 0x0000EE00#32

/-- The largest operation code of R82; "OP values 0x17 to 0xFF are reserved and illegal" (R84). -/
def lastOp : Byte := 0x16#8

/-- What every word of the opcode map satisfies, whatever its format (R80, R84). -/
def wordWellFormed (w : Word) : Bool :=
  w &&& reservedBits == 0#32 && decide (w.setWidth 8 ≤ lastOp)

/-- Whether the command uses an immediate that fits its format: the width of each operand is its type (R87, "within 0..255 for
FI8 and 0..65535 for FI16", R85), so that no command is ill-formed; what can be ill-formed is a word. -/
def Instr.wf : Instr → Bool
  | .crcUpdate imm | .classify imm => decide (imm.toNat ≤ 255)
  | .setCount imm | .mbapFrame imm => decide (imm.toNat ≤ 65535)
  | .decodeReq _ | .decodeRsp _ | .excTest _ => true
  | .nop | .crcInit | .crcSpanTx | .crcSpanAcc | .encodeReq | .encodeRsp | .encodeExc | .rtuFrame | .mbapDeframeReq
  | .mbapDeframeRsp | .openRtu | .openTcp | .close | .sendRequest | .sendResponse | .sendException | .awaitResponse
  | .awaitRequest => true

/-- The bounds R8 sets on the open parameters: `READ_LIMIT` is `none` or at least 1, `ACC_CAP` is `none` or at least 8. -/
def Params.wf (p : Params) : Bool :=
  (match p.readLimit with
    | none => true
    | some n => decide (1 ≤ n)) &&
  (match p.accCap with
    | none => true
    | some c => decide (8 ≤ c))

/-- The shape of a read answer: "`Data(bs)` with `1 <= len(bs) <= max`" for the `max` of every read, `READ_CHUNK` (R212). -/
def ReadAnswer.wf : ReadAnswer → Bool
  | .data bs => decide (1 ≤ bs.length) && decide (bs.length ≤ Config.readChunk)
  | .closed | .timedOut | .ioError => true

end Sys2Proof
end

