-- ==== Sys2Proof/Decode.lean ====
section
/-! DEFINITION. The opcode map (30_encoding.md R82), the decoder that reads it (R83, R87), and the encoder of a command's word
(R80, R81). -/

namespace Sys2Proof

/-- Operand assembly (R87): IMM8 is `word[23:16]`. -/
def imm8Of (w : Word) : Byte := w.extractLsb' 16 8

/-- Operand assembly (R87): IMM16 is `word[31:16]`, unsigned. -/
def imm16Of (w : Word) : Half := w.extractLsb' 16 16

/-- Operand assembly (R87): V is `word[8]`. -/
def vOf (w : Word) : Bool := w.getLsbD 8

/-- A row of the opcode map (R82): its mnemonic, its mask and match words, and the command it stands for. -/
structure Row where
  mnemonic : String
  value : Word
  mask : Word
  build : Word → Instr

/-- "A command word selects the row whose `(word AND mask) = match`" (R82). -/
def Row.selects (r : Row) (w : Word) : Bool := w &&& r.mask == r.value

/-- The opcode map, rows 0x00 to 0x08 (R82). -/
def opcodeMapLow : List Row :=
  [ ⟨"NOP", 0x00000000#32, 0xFFFFFFFF#32, fun _ => .nop⟩,
    ⟨"CRC_INIT", 0x00000001#32, 0xFFFFFFFF#32, fun _ => .crcInit⟩,
    ⟨"CRC_UPDATE", 0x00000002#32, 0xFF00FFFF#32, fun w => .crcUpdate (imm8Of w)⟩,
    ⟨"CRC_SPAN_TX", 0x00000003#32, 0xFFFFFFFF#32, fun _ => .crcSpanTx⟩,
    ⟨"CRC_SPAN_ACC", 0x00001003#32, 0xFFFFFFFF#32, fun _ => .crcSpanAcc⟩,
    ⟨"CLASSIFY", 0x00000004#32, 0xFF00FFFF#32, fun w => .classify (imm8Of w)⟩,
    ⟨"SET_COUNT", 0x00000005#32, 0x0000FFFF#32, fun w => .setCount (imm16Of w)⟩,
    ⟨"ENCODE_REQ", 0x00000006#32, 0xFFFFFFFF#32, fun _ => .encodeReq⟩,
    ⟨"ENCODE_RSP", 0x00000007#32, 0xFFFFFFFF#32, fun _ => .encodeRsp⟩,
    ⟨"ENCODE_EXC", 0x00000008#32, 0xFFFFFFFF#32, fun _ => .encodeExc⟩ ]

/-- The opcode map, rows 0x09 to 0x0F (R82). -/
def opcodeMapMid : List Row :=
  [ ⟨"DECODE_REQ", 0x00000009#32, 0xFFFFFEFF#32, fun w => .decodeReq (vOf w)⟩,
    ⟨"DECODE_RSP", 0x0000000A#32, 0xFFFFFEFF#32, fun w => .decodeRsp (vOf w)⟩,
    ⟨"EXC_TEST", 0x0000000B#32, 0xFFFFFEFF#32, fun w => .excTest (vOf w)⟩,
    ⟨"RTU_FRAME", 0x0000000C#32, 0xFFFFFFFF#32, fun _ => .rtuFrame⟩,
    ⟨"MBAP_FRAME", 0x0000000D#32, 0x0000FFFF#32, fun w => .mbapFrame (imm16Of w)⟩,
    ⟨"MBAP_DEFRAME_REQ", 0x0000000E#32, 0xFFFFFFFF#32, fun _ => .mbapDeframeReq⟩,
    ⟨"MBAP_DEFRAME_RSP", 0x0000000F#32, 0xFFFFFFFF#32, fun _ => .mbapDeframeRsp⟩ ]

/-- The opcode map, rows 0x10 to 0x16 (R82). -/
def opcodeMapHigh : List Row :=
  [ ⟨"OPEN_RTU", 0x00000010#32, 0xFFFFFFFF#32, fun _ => .openRtu⟩,
    ⟨"OPEN_TCP", 0x00001010#32, 0xFFFFFFFF#32, fun _ => .openTcp⟩,
    ⟨"CLOSE", 0x00000011#32, 0xFFFFFFFF#32, fun _ => .close⟩,
    ⟨"SEND_REQUEST", 0x00000012#32, 0xFFFFFFFF#32, fun _ => .sendRequest⟩,
    ⟨"SEND_RESPONSE", 0x00000013#32, 0xFFFFFFFF#32, fun _ => .sendResponse⟩,
    ⟨"SEND_EXCEPTION", 0x00000014#32, 0xFFFFFFFF#32, fun _ => .sendException⟩,
    ⟨"AWAIT_RESPONSE", 0x00000015#32, 0xFFFFFFFF#32, fun _ => .awaitResponse⟩,
    ⟨"AWAIT_REQUEST", 0x00000016#32, 0xFFFFFFFF#32, fun _ => .awaitRequest⟩ ]

/-- The opcode map (R82). -/
def opcodeMap : List Row := opcodeMapLow ++ opcodeMapMid ++ opcodeMapHigh

/-- Why no row of the opcode map matches a word (R83): an operation code of 0x17 or more, or a reserved bit that is not 0. -/
inductive IllegalWord where
  | reservedOp
  | reservedBits
deriving DecidableEq, Repr

/-- Command decode, total on every word (R83): the row that matches, with its operands, or the reason there is none. -/
def decode (w : Word) : Except IllegalWord Instr :=
  match opcodeMap.find? (·.selects w) with
  | some r => .ok (r.build w)
  | none => .error (if lastOp < w.setWidth 8 then .reservedOp else .reservedBits)

/-- The word of format F0 (R81): OP and the fixed S bit. -/
def wordF0 (op : Byte) (s : Bool) : Word := (if s then 0x1000#32 else 0#32) ||| op.setWidth 32

/-- The word of format FI8 (R81): IMM8 in bits 23:16. -/
def wordFI8 (op : Byte) (imm : Byte) : Word := (imm.setWidth 32 <<< 16) ||| op.setWidth 32

/-- The word of format FI16 (R81): IMM16 in bits 31:16. -/
def wordFI16 (op : Byte) (imm : Half) : Word := (imm.setWidth 32 <<< 16) ||| op.setWidth 32

/-- The word of format FV (R81): V in bit 8. -/
def wordFV (op : Byte) (v : Bool) : Word := (if v then 0x100#32 else 0#32) ||| op.setWidth 32

/-- The word of a command (R80 to R82). -/
def encode : Instr → Word
  | .nop => wordF0 0x00#8 false
  | .crcInit => wordF0 0x01#8 false
  | .crcUpdate imm => wordFI8 0x02#8 imm
  | .crcSpanTx => wordF0 0x03#8 false
  | .crcSpanAcc => wordF0 0x03#8 true
  | .classify imm => wordFI8 0x04#8 imm
  | .setCount imm => wordFI16 0x05#8 imm
  | .encodeReq => wordF0 0x06#8 false
  | .encodeRsp => wordF0 0x07#8 false
  | .encodeExc => wordF0 0x08#8 false
  | .decodeReq v => wordFV 0x09#8 v
  | .decodeRsp v => wordFV 0x0A#8 v
  | .excTest v => wordFV 0x0B#8 v
  | .rtuFrame => wordF0 0x0C#8 false
  | .mbapFrame imm => wordFI16 0x0D#8 imm
  | .mbapDeframeReq => wordF0 0x0E#8 false
  | .mbapDeframeRsp => wordF0 0x0F#8 false
  | .openRtu => wordF0 0x10#8 false
  | .openTcp => wordF0 0x10#8 true
  | .close => wordF0 0x11#8 false
  | .sendRequest => wordF0 0x12#8 false
  | .sendResponse => wordF0 0x13#8 false
  | .sendException => wordF0 0x14#8 false
  | .awaitResponse => wordF0 0x15#8 false
  | .awaitRequest => wordF0 0x16#8 false

/-- The command the decoder reads from an instruction whose bits are `w`, numbered as the opcode table numbers them. A command is
one 32-bit word and nothing else (R52 item 6, R80), so a longer bit string is no command. -/
def decodeTableWord (nbits w : Nat) : Option Instr :=
  if nbits ≤ 32 ∧ w < 2 ^ nbits then
    match decode (BitVec.ofNat 32 w) with
    | .ok i => some i
    | .error _ => none
  else none

end Sys2Proof
end

