-- ==== Sys2Proof/Machine/State.lean ====
section
/-! DEFINITION. The state of the block (10_state.md R20 to R50): plain data, every element the spec names, and beside it the
model's own fields: the parameters the block runs with and the environment (host, channel) as data. -/

namespace Sys2Proof.Machine

/-- STATUS.TRANSPORT (R22, R27): 0 RTU, 1 TCP. -/
inductive Transport where
  | rtu
  | tcp
deriving DecidableEq, Repr

/-- The role of an exchange (STATUS.ROLE, R29) and of a decode (`REQ`, `RSP`, 42_codec.md section 2). -/
inductive Role where
  | request
  | response
deriving DecidableEq, Repr

/-- STATUS.FSM (R30, 30_encoding.md R109). Codes 5 to 7 are never written: they have no constructor. -/
inductive Fsm where
  | idle
  | awaitingFrame
  | retrying
  | decoded
  | failed
deriving DecidableEq, Repr

/-- The codec errors, recoverable in the read loop (30_encoding.md R110): all that STATUS.LASTERR can name (R32). -/
inductive DecodeErr where
  | invalidCrc
  | malformed
  | unknownFunction
deriving DecidableEq, Repr

/-- The result codes (30_encoding.md R110). Reserved codes are never written (R111): they have no constructor. -/
inductive ResultCode where
  | ok
  | exceptionReceived
  | invalidCrc
  | malformed
  | unknownFunction
  | timeout
  | connectionClosed
  | invalidMessageId
  | protocolError
  | slaveDeviceFailure
  | illegalCommand
deriving DecidableEq, Repr

/-- The function types of the classifier (30_encoding.md R107). -/
inductive FunctionType where
  | unknown
  | read
  | write
  | diagnostics
  | exception
deriving DecidableEq, Repr

/-- The register categories of the classifier (30_encoding.md R107). -/
inductive RegCategory where
  | unknown
  | coil
  | discreteInput
  | holdingRegister
  | inputRegister
deriving DecidableEq, Repr

/-- A value cell (00_scope.md R15). -/
inductive Cell where
  | bit (b : Bool)
  | word (w : Half)
  | raw (r : Half)
deriving DecidableEq, Repr

/-- The kind of a decoded message (30_encoding.md R108, codes 0 to 2). -/
inductive MsgKind where
  | request
  | response
  | exception
deriving DecidableEq, Repr

/-- STATUS (R22), by its fields; the word the host reads is put together by `statusWord`. -/
structure Status where
  busy : Bool
  done : Bool
  ovr : Bool
  isOpen : Bool
  transport : Transport
  pred : Bool
  role : Role
  fsm : Fsm
  result : ResultCode
  /-- LASTERR; `none` is 0x00, "if the current exchange has had none" (R32). -/
  lastErr : Option DecodeErr
deriving DecidableEq, Repr

/-- CLASS (R34), by its fields. -/
structure ClassReg where
  fc : Byte
  ftype : FunctionType
  rcat : RegCategory
deriving DecidableEq, Repr

/-- A byte buffer with its index register (R40, R41). Its length register is the length of `bytes` (20_memory.md R65). -/
structure Buf where
  bytes : List Byte
  idx : Word
deriving DecidableEq, Repr

/-- The TX message registers (R42 to R44). TXM_COUNT is the length of `cells` (R43). -/
structure TxMsg where
  sid : Byte
  fc : Byte
  addr : Half
  err : Byte
  cells : List Cell
  idx : Half
deriving DecidableEq, Repr

/-- The RX message registers with RX_START and RX_LEN (R45 to R47). RXM_VLEN is the length of `cells` (R45). -/
structure RxMsg where
  /-- RXM_KIND; `none` is 3, "None: no message decoded" (R45). -/
  kind : Option MsgKind
  sid : Byte
  fc : Byte
  addr : Half
  count : Half
  err : Byte
  cells : List Cell
  idx : Half
  start : Word
  len : Word
deriving DecidableEq, Repr

/-- A host access (20_memory.md R60, R63). `read` and `write` are whole 32-bit accesses at a byte offset; `subword` is an access
of another width, outside the interface. -/
inductive HostOp where
  | read (off : Nat)
  | write (off : Nat) (v : Word)
  | subword (width off : Nat)
deriving DecidableEq, Repr

/-- Who moves next in the one total order of steps (20_memory.md R76): the host with an access, the block engine with a read step,
or a reset from outside (70_reset_and_hazards.md R290). -/
inductive Turn where
  | host (op : HostOp)
  | engine
  | reset
deriving DecidableEq, Repr

/-- A request the block made of the channel, with the channel's answer (44_connection.md R212). -/
inductive ChanEvent where
  | write (bs : List Byte) (a : WriteAnswer)
  | read (max timeout : Nat) (a : ReadAnswer)
  | close
deriving DecidableEq, Repr

/-- The environment, the MODEL's own fields: the turns still to come (log 1), the channel's answers still to come and the counter
of free answers (log 2), and what the outside has seen of the block, oldest first (log 7). -/
structure Env where
  script : List Turn
  readAnswers : List ReadAnswer
  writeAnswers : List WriteAnswer
  draws : Nat
  chanLog : List ChanEvent
  hostReads : List (Nat × Word)
deriving DecidableEq, Repr

/-- The state: the architectural state of R20 "and nothing else", the parameters (log 3) and the environment. -/
structure State where
  status : Status
  cls : ClassReg
  crc : Half
  tidNext : Half
  tidOut : Half
  tidRx : Half
  reads : Word
  txb : Buf
  acc : Buf
  txm : TxMsg
  rx : RxMsg
  closeIssued : Bool
  params : Params
  env : Env
deriving DecidableEq, Repr

/-- Why the machine stops. -/
inductive Fault where
  /-- Raised by `step` when the host's next access is not a whole aligned 32-bit one and no other agent has a step: "the model gives
  it no step (the host agent is stuck) rather than a value" (20_memory.md R63). Safe: the model stops. -/
  | hostStuck
deriving DecidableEq, Repr

/-- Why the model gives a step no meaning. -/
inductive Refusal where
  /-- Raised by an arm of `exec` whose command has no meaning yet. Safe. No arm does. -/
  | notModelled (mnemonic : String)
  /-- Raised by the engine's read step on a read answer that is empty or longer than READ_CHUNK: "such an answer is not in the
  model" (93_implementation_defined.md U16, 44_connection.md R212). Safe: the model stops. -/
  | channelAnswerOutsideContract
deriving DecidableEq, Repr

/-- STATUS after reset (R50): 0x00000000. -/
def Status.reset : Status :=
  { busy := false, done := false, ovr := false, isOpen := false, transport := .rtu, pred := false, role := .request,
    fsm := .idle, result := .ok, lastErr := none }

/-- TXBUF and ACC after reset (R50): empty, length 0, index 0. -/
def Buf.reset : Buf := { bytes := [], idx := 0#32 }

/-- The TX message registers after reset (R50). -/
def TxMsg.reset : TxMsg := { sid := 0#8, fc := 0#8, addr := 0#16, err := 0#8, cells := [], idx := 0#16 }

/-- The RX message registers after reset (R50): RXM_KIND 3 (None), everything else 0 or empty. -/
def RxMsg.reset : RxMsg :=
  { kind := none, sid := 0#8, fc := 0#8, addr := 0#16, count := 0#16, err := 0#8, cells := [], idx := 0#16, start := 0#32,
    len := 0#32 }

/-- The environment before anything has happened (log 1, log 2, log 7). -/
def Env.initial : Env :=
  { script := [], readAnswers := [], writeAnswers := [], draws := 0, chanLog := [], hostReads := [] }

/-- The block right after reset (R50, 70_reset_and_hazards.md R290), with parameters `p` and environment `e`. -/
def State.resetWith (p : Params) (e : Env) : State :=
  { status := Status.reset, cls := { fc := 0#8, ftype := .unknown, rcat := .unknown }, crc := 0xFFFF#16,
    tidNext := p.tidInit, tidOut := 0#16, tidRx := 0#16, reads := 0#32, txb := Buf.reset, acc := Buf.reset,
    txm := TxMsg.reset, rx := RxMsg.reset, closeIssued := true, params := p, env := e }

/-- The machine right after reset (R50), with the uninterpreted parameters of Config (log 3) and nothing placed. -/
def State.reset : State := State.resetWith Config.params Env.initial

end Sys2Proof.Machine
end

