-- ==== Sys2Proof/Machine/Operands.lean ====
section
/-! DEFINITION. The operand forms: byte order (00_scope.md R12), reads of byte runs (R11), value cells and their coercions (R15, R16),
coil packing (30_encoding.md R98), and the data ports of the buffers and cell arrays (20_memory.md R64, 10_state.md R44, R46). -/

namespace Sys2Proof.Machine

/-- `be16(v) = [v[15:8], v[7:0]]` (R12). -/
def be16 (v : Half) : List Byte := [v.extractLsb' 8 8, v.extractLsb' 0 8]

/-- `le16(v) = [v[7:0], v[15:8]]` (R12). -/
def le16 (v : Half) : List Byte := [v.extractLsb' 0 8, v.extractLsb' 8 8]

/-- `xs[i]` (R11). Every rule reads an index below the length; past it, 0. -/
def byteAt (xs : List Byte) (i : Nat) : Byte := xs.getD i 0#8

/-- The 16-bit value `hi*256 + lo` (R12). -/
def joinBytes (hi lo : Byte) : Half := (hi.setWidth 16 <<< 8) ||| lo.setWidth 16

/-- `rd_be16(xs, i) = xs[i]*256 + xs[i+1]` (R12). -/
def rdBe16 (xs : List Byte) (i : Nat) : Half := joinBytes (byteAt xs i) (byteAt xs (i + 1))

/-- `rd_le16(xs, i) = xs[i] + xs[i+1]*256` (R12). -/
def rdLe16 (xs : List Byte) (i : Nat) : Half := joinBytes (byteAt xs (i + 1)) (byteAt xs i)

/-- `bitOf` (R16). -/
def Cell.bitOf : Cell → Bool
  | .bit b => b
  | .word w => w != 0#16
  | .raw r => r != 0#16

/-- `wordOf` (R16). -/
def Cell.wordOf : Cell → Half
  | .bit b => if b then 1#16 else 0#16
  | .word w => w
  | .raw r => r

/-- `words(vs) = concat over v in vs of be16(wordOf(v))` (42_codec.md). -/
def wordsOf (vs : List Cell) : List Byte := vs.flatMap fun v => be16 v.wordOf

/-- The big-endian words of a byte run, `rd_be16(b, 2i)` for each whole pair; an odd last byte is no word. -/
def wordsFrom : List Byte → List Half
  | hi :: lo :: rest => joinBytes hi lo :: wordsFrom rest
  | [_] => []
  | [] => []

/-- One packed byte (30_encoding.md R98): the sum over `k` of `b_k << k`. -/
def packByte : List Bool → Nat
  | [] => 0
  | b :: bs => (if b then 1 else 0) + 2 * packByte bs

/-- The first `n` bytes of the packing of a list of booleans (R98). -/
def packBytes : Nat → List Bool → List Byte
  | 0, _ => []
  | n + 1, bs => BitVec.ofNat 8 (packByte (bs.take 8)) :: packBytes n (bs.drop 8)

/-- `pack` (R98): `ceil(n/8)` bytes, 8 values per byte, LSB first, unused high bits 0. -/
def pack (bs : List Bool) : List Byte := packBytes ((bs.length + 7) / 8) bs

/-- The eight values of one packed byte (R98): `b_k = d[k]`. -/
def unpackByte (d : Byte) : List Bool :=
  [d.getLsbD 0, d.getLsbD 1, d.getLsbD 2, d.getLsbD 3, d.getLsbD 4, d.getLsbD 5, d.getLsbD 6, d.getLsbD 7]

/-- `unpack` (R98): `8 x len(ds)` booleans. -/
def unpack (ds : List Byte) : List Bool := ds.flatMap unpackByte

/-- `bits(vs) = pack([bitOf(v) for v in vs])` (42_codec.md). -/
def bitsOf (vs : List Cell) : List Byte := pack (vs.map Cell.bitOf)

/-- A cell in the register format of R105: TAG in bits 17:16, DATA in bits 15:0. -/
def Cell.toWord : Cell → Word
  | .bit b => (0#32 <<< 16) ||| (if b then 1#32 else 0#32)
  | .word w => (1#32 <<< 16) ||| w.setWidth 32
  | .raw r => (2#32 <<< 16) ||| r.setWidth 32

/-- The cell a write of the register format stands for (10_state.md R44, R105): tag 0, 1 or 2; tag 3 is reserved. -/
def Cell.ofWord (v : Word) : Option Cell :=
  if v.extractLsb' 16 2 = 0#2 then some (.bit (v.getLsbD 0))
  else if v.extractLsb' 16 2 = 1#2 then some (.word (v.extractLsb' 0 16))
  else if v.extractLsb' 16 2 = 2#2 then some (.raw (v.extractLsb' 0 16))
  else none

/-- What a 32-bit register shows for a length or an offset: the number where it fits, else a FREE VALUE (log 5). -/
def wordOfLength (n : Nat) : Word := if n < 2 ^ 32 then BitVec.ofNat 32 n else Config.freeWideLength n

/-- A read of a buffer's data port (20_memory.md R64). -/
def Buf.readPort (b : Buf) : Word := (byteAt b.bytes b.idx.toNat).setWidth 32

/-- A write of a buffer's data port (R64): no effect at or beyond the length. -/
def Buf.writePort (b : Buf) (v : Word) : Buf := { b with bytes := b.bytes.set b.idx.toNat (v.setWidth 8) }

/-- A resize of a buffer to `n` bytes (20_memory.md R65): cut, or filled up with 0. -/
def Buf.resize (b : Buf) (n : Nat) : Buf :=
  { b with bytes := if n ≤ b.bytes.length then b.bytes.take n else b.bytes ++ List.replicate (n - b.bytes.length) 0#8 }

/-- The length a write to ACC_LEN resizes to (R65): at most `ACC_CAP`. -/
def cappedLength (cap : Option Nat) (n : Nat) : Nat :=
  match cap with
  | none => n
  | some c => if c < n then c else n

/-- What ACC keeps of a byte run (20_memory.md R75): the last `ACC_CAP` bytes. -/
def keepLast (cap : Option Nat) (bs : List Byte) : List Byte :=
  match cap with
  | none => bs
  | some c => if c < bs.length then bs.drop (bs.length - c) else bs

/-- A read of a cell-array port (10_state.md R44, R46): the cell in register format, or 0 past the end. -/
def readCellPort (cells : List Cell) (idx : Half) : Word :=
  match cells[idx.toNat]? with
  | some c => c.toWord
  | none => 0#32

/-- A write of the TXV port (R44): nothing for tag 3 or past the end. -/
def writeCellPort (cells : List Cell) (idx : Half) (v : Word) : List Cell :=
  match Cell.ofWord v with
  | some c => cells.set idx.toNat c
  | none => cells

/-- A cell list re-shaped to `n` cells (41_classify.md R143): cut, or filled up with `pad`. -/
def reshape (cells : List Cell) (pad : Cell) (n : Nat) : List Cell :=
  if n ≤ cells.length then cells.take n else cells ++ List.replicate (n - cells.length) pad

end Sys2Proof.Machine
end

