-- ==== Sys2Proof/Machine/Flags.lean ====
section
/-! DEFINITION. The codes of the register fields (30_encoding.md R107 to R110), the words of STATUS and CLASS (10_state.md R22, R34),
and the predicates that set flags: the exception-frame predicate (R102), the read limit (44_connection.md R234). -/

namespace Sys2Proof.Machine

/-- STATUS.TRANSPORT (R22). -/
def Transport.bit : Transport → Bool
  | .rtu => false
  | .tcp => true

/-- STATUS.ROLE (R22): 0 awaiting a request, 1 awaiting a response. -/
def Role.bit : Role → Bool
  | .request => false
  | .response => true

/-- STATUS.FSM (30_encoding.md R109). -/
def Fsm.code : Fsm → BitVec 3
  | .idle => 0#3
  | .awaitingFrame => 1#3
  | .retrying => 2#3
  | .decoded => 3#3
  | .failed => 4#3

/-- The result codes (30_encoding.md R110). -/
def ResultCode.code : ResultCode → Byte
  | .ok => 0x00#8
  | .exceptionReceived => 0x01#8
  | .invalidCrc => 0x10#8
  | .malformed => 0x11#8
  | .unknownFunction => 0x12#8
  | .timeout => 0x20#8
  | .connectionClosed => 0x21#8
  | .invalidMessageId => 0x22#8
  | .protocolError => 0x23#8
  | .slaveDeviceFailure => 0x24#8
  | .illegalCommand => 0x30#8

/-- The result code of a codec error (R110). -/
def DecodeErr.result : DecodeErr → ResultCode
  | .invalidCrc => .invalidCrc
  | .malformed => .malformed
  | .unknownFunction => .unknownFunction

/-- STATUS.LASTERR (R32): the code of the last recoverable failure, or 0x00. -/
def lastErrCode : Option DecodeErr → Byte
  | none => 0x00#8
  | some e => e.result.code

/-- FTYPE (30_encoding.md R107). -/
def FunctionType.code : FunctionType → BitVec 3
  | .unknown => 0#3
  | .read => 1#3
  | .write => 2#3
  | .diagnostics => 3#3
  | .exception => 4#3

/-- RCAT (30_encoding.md R107). -/
def RegCategory.code : RegCategory → BitVec 3
  | .unknown => 0#3
  | .coil => 1#3
  | .discreteInput => 2#3
  | .holdingRegister => 3#3
  | .inputRegister => 4#3

/-- RXM_KIND (30_encoding.md R108). -/
def kindCode : Option MsgKind → BitVec 2
  | some .request => 0#2
  | some .response => 1#2
  | some .exception => 2#2
  | none => 3#2

/-- A flag at its bit of a register word. -/
def flagAt (pos : Nat) (b : Bool) : Word := if b then 1#32 <<< pos else 0#32

/-- A field at its bits of a register word, from bit `pos` on. -/
def fieldAt (pos : Nat) {n : Nat} (x : BitVec n) : Word := x.setWidth 32 <<< pos

/-- The STATUS word (10_state.md R22): each field at its bits, bits 7 and 15:11 reading 0. -/
def statusWord (st : Status) : Word :=
  flagAt 0 st.busy ||| flagAt 1 st.done ||| flagAt 2 st.ovr ||| flagAt 3 st.isOpen ||| flagAt 4 st.transport.bit |||
    flagAt 5 st.pred ||| flagAt 6 st.role.bit ||| fieldAt 8 st.fsm.code ||| fieldAt 16 st.result.code |||
    fieldAt 24 (lastErrCode st.lastErr)

/-- The CLASS word (10_state.md R34, 41_classify.md R142): FC in bits 15:8, RCAT in bits 6:4, FTYPE in bits 2:0. -/
def classWord (c : ClassReg) : Word := fieldAt 8 c.fc ||| fieldAt 4 c.rcat.code ||| fieldAt 0 c.ftype.code

/-- The exception-frame predicate (30_encoding.md R102): `len(b) >= 3 and b[1][7] = 1`. -/
def isExc (b : List Byte) : Bool := decide (3 ≤ b.length) && (byteAt b 1).getLsbD 7

/-- `limitReached()` (44_connection.md R234): never with `READ_LIMIT = none`, else `READS >= READ_LIMIT`. -/
def limitReached (limit : Option Nat) (reads : Word) : Bool :=
  match limit with
  | none => false
  | some n => decide (n ≤ reads.toNat)

/-- `READS <- min(READS + 1, 2^32 - 1)` (44_connection.md R226). -/
def bumpReads (reads : Word) : Word := BitVec.ofNat 32 (min (reads.toNat + 1) (2 ^ 32 - 1))

/-- "The block engine has a step exactly when STATUS.BUSY = 1 and FSM is AwaitingFrame or Retrying" (44_connection.md R221). -/
def engineEnabled (st : Status) : Bool :=
  st.busy && (st.fsm == .awaitingFrame || st.fsm == .retrying)

/-- The result of a channel failure by transport: a serial fault is SLAVE_DEVICE_FAILURE, a TCP fault PROTOCOL_ERROR (44_connection.md
R217, R225). -/
def transportFailure : Transport → ResultCode
  | .rtu => .slaveDeviceFailure
  | .tcp => .protocolError

end Sys2Proof.Machine
end

