-- ==== Sys2Proof/Machine/Ops.lean ====
section
/-! DEFINITION. The shared operations on the state: `finish` and `fsm <-` (00_scope.md R13), the channel requests (44_connection.md R212),
the append to ACC (R226), the commit of a decoded message (42_codec.md R167), reset (70_reset_and_hazards.md R290), and the
form of the buffers (`Memory.wf`). -/

namespace Sys2Proof.Machine

/-- `finish(code)` (R13): `STATUS.RESULT <- code`, `STATUS.BUSY <- 0`, `STATUS.DONE <- 1`. It is the block's equivalent of raising an
exception: "no state is saved, no vector is taken, no mode changes" (60_exceptions.md R260), so there is no return from it (R276). -/
def finish (code : ResultCode) (s : State) : State :=
  { s with status := { s.status with result := code, busy := false, done := true } }

/-- `fsm <- S` (R13). -/
def setFsm (f : Fsm) (s : State) : State := { s with status := { s.status with fsm := f } }

/-- The channel's answer to the next `chan_write`: the first listed one, or a free one (R212, log 2). -/
def writeAnswer (s : State) : WriteAnswer :=
  match s.env.writeAnswers with
  | a :: _ => a
  | [] => Config.freeWrite s.env.draws

/-- `chan_write(bs)` (R212): the request is made and its answer is used up. The answer itself is `writeAnswer`. -/
def chanWrite (bs : List Byte) (s : State) : State :=
  { s with env := { s.env with
      writeAnswers := s.env.writeAnswers.tail
      draws := if s.env.writeAnswers.isEmpty then s.env.draws + 1 else s.env.draws
      chanLog := s.env.chanLog ++ [.write bs (writeAnswer s)] } }

/-- The channel's answer to the next `chan_read`: the first listed one, or a free one (R212, log 2). -/
def readAnswer (s : State) : ReadAnswer :=
  match s.env.readAnswers with
  | a :: _ => a
  | [] => (Config.freeRead s.env.draws).toAnswer

/-- `chan_read(READ_CHUNK)` with READ_TIMEOUT (R212, R222): the request is made and its answer, `readAnswer`, is used up. -/
def chanRead (s : State) : State :=
  { s with env := { s.env with
      readAnswers := s.env.readAnswers.tail
      draws := if s.env.readAnswers.isEmpty then s.env.draws + 1 else s.env.draws
      chanLog := s.env.chanLog ++ [.read Config.readChunk s.params.readTimeout (readAnswer s)] } }

/-- `chan_close()` (R212). -/
def chanClose (s : State) : State := { s with env := { s.env with chanLog := s.env.chanLog ++ [.close] } }

/-- `append(bs)` (44_connection.md R226, 20_memory.md R75). -/
def appendAcc (bs : List Byte) (s : State) : State :=
  { s with
    acc := { s.acc with bytes := keepLast s.params.accCap (s.acc.bytes ++ bs) }
    reads := bumpReads s.reads }

/-- A message record (00_scope.md R14) with the kind a decode gives it (42_codec.md section 2). -/
structure Msg where
  kind : MsgKind
  sid : Byte
  fc : Byte
  addr : Half := 0#16
  count : Half := 0#16
  values : List Cell := []
  err : Byte := 0#8
deriving DecidableEq, Repr

/-- `commitRx(msg, start, length)` (42_codec.md R167): the RX registers, all together. -/
def commitRx (m : Msg) (start len : Nat) (s : State) : State :=
  { s with rx :=
      { kind := some m.kind, sid := m.sid, fc := m.fc, addr := m.addr, count := m.count, err := m.err, cells := m.values,
        idx := 0#16, start := wordOfLength start, len := wordOfLength len } }

/-- The result of a decoded message: "`msg.kind = Exception ? EXCEPTION_RECEIVED : OK`" (42_codec.md R169, 44_connection.md R231). -/
def successCode (m : Msg) : ResultCode :=
  match m.kind with
  | .exception => .exceptionReceived
  | .request | .response => .ok

/-- A decode command's last lines (42_codec.md R168, R169): commit and report a message, or report the error. -/
def settleDecode (r : Except DecodeErr Msg) (start len : Nat) (s : State) : State :=
  match r with
  | .ok m => finish (successCode m) (commitRx m start len s)
  | .error e => finish e.result s

/-- TXM_COUNT (10_state.md R43): the number of cells of TXV. -/
def State.txmCount (s : State) : Half := BitVec.ofNat 16 s.txm.cells.length

/-- The reset action (70_reset_and_hazards.md R290): every state element takes its reset value in one step, and no channel request is
made. The parameters and the environment are not state elements of the block (R20) and stay. -/
def resetAction (s : State) : State := State.resetWith s.params s.env

/-- The form every buffer of a reachable state has: ACC within `ACC_CAP` (20_memory.md R75), and TXV and RXV within the value-cell
capacity of 65535 (00_scope.md R8). A byte sequence is a list, so two equal buffers are equal data (log 4). -/
def Memory.wf (s : State) : Bool :=
  (match s.params.accCap with
    | none => true
    | some c => decide (s.acc.bytes.length ≤ c)) &&
  decide (s.txm.cells.length ≤ 65535) && decide (s.rx.cells.length ≤ 65535)

end Sys2Proof.Machine
end

