-- ==== Sys2Proof/Machine/Classify.lean ====
section
/-! DEFINITION. The classifier and the message setup (41_classify.md), and the shape classes of the function codes (30_encoding.md R88,
R89). -/

namespace Sys2Proof.Machine

/-- `classify(code)` (R141): "anything outside the known set returns `(Unknown, Unknown)` rather than failing". -/
def classify (c : Byte) : FunctionType × RegCategory :=
  if c = 0x01#8 then (.read, .coil)
  else if c = 0x02#8 then (.read, .discreteInput)
  else if c = 0x03#8 then (.read, .holdingRegister)
  else if c = 0x04#8 then (.read, .inputRegister)
  else if c = 0x05#8 then (.write, .coil)
  else if c = 0x06#8 then (.write, .holdingRegister)
  else if c = 0x0F#8 then (.write, .coil)
  else if c = 0x10#8 then (.write, .holdingRegister)
  else if c = 0x08#8 then (.diagnostics, .unknown)
  else if c.getLsbD 7 then (.exception, .unknown)
  else (.unknown, .unknown)

/-- The shape classes of 30_encoding.md R88. -/
inductive Shape where
  | read
  | wsingle
  | wmulti
  | diag
  | none
deriving DecidableEq, Repr

/-- `shape(fc)` (30_encoding.md R89): the shape class column of R88. -/
def shape (fc : Byte) : Shape :=
  if fc = 0x01#8 ∨ fc = 0x02#8 ∨ fc = 0x03#8 ∨ fc = 0x04#8 then .read
  else if fc = 0x05#8 ∨ fc = 0x06#8 then .wsingle
  else if fc = 0x0F#8 ∨ fc = 0x10#8 then .wmulti
  else if fc = 0x08#8 then .diag
  else .none

/-- `bitShape(fc)` (30_encoding.md R89): "true for 0x01, 0x02, 0x05 and 0x0F, false otherwise". -/
def bitShape (fc : Byte) : Bool := fc == 0x01#8 || fc == 0x02#8 || fc == 0x05#8 || fc == 0x0F#8

/-- The padding cell of SET_COUNT (R143): `bitShape(TXM_FC) ? Bit(false) : Word(0)`. -/
def padCell (fc : Byte) : Cell := if bitShape fc then .bit false else .word 0#16

/-- NOP (R140): it "does nothing but report". -/
def execNop (s : State) : Host.Outcome State Fault Refusal := .next (finish .ok s)

/-- CLASSIFY (R142). -/
def execClassify (imm : Byte) (s : State) : Host.Outcome State Fault Refusal :=
  .next (finish .ok { s with cls := { fc := imm, ftype := (classify imm).1, rcat := (classify imm).2 } })

/-- SET_COUNT (R143). TXM_COUNT is the length of TXV (10_state.md R43). -/
def execSetCount (imm : Half) (s : State) : Host.Outcome State Fault Refusal :=
  .next (finish .ok { s with txm := { s.txm with cells := reshape s.txm.cells (padCell s.txm.fc) imm.toNat } })

end Sys2Proof.Machine
end

