-- ==== Sys2Proof/Machine/Crc.lean ====
section
/-! DEFINITION. The CRC-16 engine (40_crc.md): the function (R130, R131), the check (R132) and the four commands (R133 to R136). -/

namespace Sys2Proof.Machine

/-- One shift of the CRC register (R130): right by one, with 0xA001 fed back when a 1 leaves. -/
def crcShift (c : Half) : Half := if c.getLsbD 0 then (c >>> 1) ^^^ 0xA001#16 else c >>> 1

/-- `n` shifts of the CRC register. -/
def crcShifts : Nat → Half → Half
  | 0, c => c
  | n + 1, c => crcShifts n (crcShift c)

/-- `crcStep(c, b)` (R130): the byte into the low half, then 8 shifts. -/
def crcStep (c : Half) (b : Byte) : Half := crcShifts 8 (c ^^^ b.setWidth 16)

/-- `crc16(bs) = foldl(crcStep, 0xFFFF, bs)` (R131), no final XOR. -/
def crc16 (bs : List Byte) : Half := bs.foldl crcStep 0xFFFF#16

/-- The verification check (R132) of a run of at least 2 bytes: the CRC of all but the last two equals those two, little-endian. -/
def crcCheck (f : List Byte) : Bool := crc16 (f.take (f.length - 2)) == rdLe16 f (f.length - 2)

/-- CRC_INIT (R133). -/
def execCrcInit (s : State) : Host.Outcome State Fault Refusal := .next (finish .ok { s with crc := 0xFFFF#16 })

/-- CRC_UPDATE (R134). -/
def execCrcUpdate (imm : Byte) (s : State) : Host.Outcome State Fault Refusal :=
  .next (finish .ok { s with crc := crcStep s.crc imm })

/-- CRC_SPAN_TX (R135). -/
def execCrcSpanTx (s : State) : Host.Outcome State Fault Refusal := .next (finish .ok { s with crc := crc16 s.txb.bytes })

/-- CRC_SPAN_ACC (R136). -/
def execCrcSpanAcc (s : State) : Host.Outcome State Fault Refusal := .next (finish .ok { s with crc := crc16 s.acc.bytes })

end Sys2Proof.Machine
end

