-- ==== Sys2Proof/Machine/Codec.lean ====
section
/-! DEFINITION. The message codec (42_codec.md): encoding (R150 to R153), decoding (R157 to R166) and the six commands (R154 to R156,
R168 to R170). -/

namespace Sys2Proof.Machine

/-- The message the encoder takes (42_codec.md): the TX message registers as a record (00_scope.md R14). -/
structure TxRecord where
  sid : Byte
  fc : Byte
  addr : Half
  count : Half
  values : List Cell
  err : Byte
deriving DecidableEq, Repr

/-- `m = {sid: TXM_SID, fc: TXM_FC, addr: TXM_ADDR, count: TXM_COUNT, values: TXV, err: TXM_ERR}` (42_codec.md). -/
def txMessage (s : State) : TxRecord :=
  { sid := s.txm.sid, fc := s.txm.fc, addr := s.txm.addr, count := s.txmCount, values := s.txm.cells, err := s.txm.err }

/-- `hdr <- [m.sid, m.fc] ++ be16(m.addr)` (R151). -/
def header (m : TxRecord) : List Byte := [m.sid, m.fc] ++ be16 m.addr

/-- The value a WSINGLE body carries (R151): the first cell, or 0 of the code's category; 0xFF00 and 0x0000 for a coil (30_encoding.md
R99). -/
def singleValue (m : TxRecord) : Half :=
  let v := m.values.headD (if m.fc = 0x05#8 then .bit false else .word 0#16)
  if m.fc = 0x05#8 then (if v.bitOf then 0xFF00#16 else 0x0000#16) else v.wordOf

/-- `[len(d) mod 256]` (R151, R152). -/
def byteCount (d : List Byte) : Byte := BitVec.ofNat 8 d.length

/-- The data of a WMULTI request (R151): bits for 0x0F, words otherwise. -/
def multiData (m : TxRecord) : List Byte := if m.fc = 0x0F#8 then bitsOf m.values else wordsOf m.values

/-- The data of a READ response (R152): bits for a bit category, words otherwise. -/
def readData (m : TxRecord) : List Byte := if bitShape m.fc then bitsOf m.values else wordsOf m.values

/-- Request encoding (R151). -/
def encodeReqBody (m : TxRecord) : List Byte :=
  match shape m.fc with
  | .read => header m ++ be16 m.count
  | .wsingle => header m ++ be16 (singleValue m)
  | .wmulti => header m ++ be16 m.count ++ [byteCount (multiData m)] ++ multiData m
  | .diag | .none => header m ++ wordsOf m.values

/-- Response encoding (R152). -/
def encodeRspBody (m : TxRecord) : List Byte :=
  match shape m.fc with
  | .read => [m.sid, m.fc, byteCount (readData m)] ++ readData m
  | .wsingle => encodeReqBody m
  | .wmulti => header m ++ be16 m.count
  | .diag | .none => header m ++ wordsOf m.values

/-- Exception encoding (R153): `[m.sid, m.fc OR 0x80, m.err]`. -/
def encodeExcBody (m : TxRecord) : List Byte := [m.sid, m.fc ||| 0x80#8, m.err]

/-- `knownErr(e)` (30_encoding.md R106): the nine standard error codes. -/
def knownErr (e : Byte) : Bool :=
  e == 0x01#8 || e == 0x02#8 || e == 0x03#8 || e == 0x04#8 || e == 0x05#8 || e == 0x06#8 || e == 0x08#8 || e == 0x0A#8 ||
    e == 0x0B#8

/-- `role = REQ ? Request : Response` (R162, R165). -/
def Role.kind : Role → MsgKind
  | .request => .request
  | .response => .response

/-- Exception body (R159). -/
def decodeExcBody (b : List Byte) : Except DecodeErr Msg :=
  if b.length ≠ 3 then .error .malformed
  else if knownErr (byteAt b 2) = false then .error .malformed
  else .ok { kind := .exception, sid := byteAt b 0, fc := byteAt b 1 &&& 0x7F#8, err := byteAt b 2 }

/-- READ request body (R160). -/
def decodeReadReq (b : List Byte) : Except DecodeErr Msg :=
  if b.length ≠ 6 then .error .malformed
  else .ok { kind := .request, sid := byteAt b 0, fc := byteAt b 1, addr := rdBe16 b 2, count := rdBe16 b 4 }

/-- The cells of a READ response's data (R161): one a bit, padding included, or one a word. -/
def readCells (fc : Byte) (data : List Byte) : List Cell :=
  if bitShape fc then (unpack data).map .bit else (wordsFrom data).map .word

/-- READ response body (R161). -/
def decodeReadRsp (b : List Byte) : Except DecodeErr Msg :=
  if b.length < 3 then .error .malformed
  else if b.length ≠ 3 + (byteAt b 2).toNat then .error .malformed
  else if bitShape (byteAt b 1) = false ∧ (byteAt b 2).toNat % 2 ≠ 0 then .error .malformed
  else .ok { kind := .response, sid := byteAt b 0, fc := byteAt b 1,
             count := BitVec.ofNat 16 (readCells (byteAt b 1) (b.drop 3)).length, values := readCells (byteAt b 1) (b.drop 3) }

/-- The cell of a WSINGLE value (R162): a coil's is 0xFF00 or 0x0000 and nothing else (30_encoding.md R99). -/
def singleCell (fc : Byte) (x : Half) : Option Cell :=
  if fc = 0x05#8 then
    if x = 0xFF00#16 then some (.bit true) else if x = 0x0000#16 then some (.bit false) else none
  else some (.word x)

/-- WSINGLE body (R162). -/
def decodeSingle (b : List Byte) (role : Role) : Except DecodeErr Msg :=
  if b.length ≠ 6 then .error .malformed
  else
    match singleCell (byteAt b 1) (rdBe16 b 4) with
    | none => .error .malformed
    | some v =>
      .ok { kind := role.kind, sid := byteAt b 0, fc := byteAt b 1, addr := rdBe16 b 2, count := 1#16, values := [v] }

/-- `need` (R163): the data bytes the count asks for. -/
def multiNeed (fc : Byte) (q : Half) : Nat := if fc = 0x0F#8 then (q.toNat + 7) / 8 else 2 * q.toNat

/-- The cells of a WMULTI request's data (R163): the first `q` bits, or the words. -/
def multiCells (fc : Byte) (q : Half) (data : List Byte) : List Cell :=
  if fc = 0x0F#8 then ((unpack data).take q.toNat).map .bit else (wordsFrom data).map .word

/-- WMULTI request body (R163). -/
def decodeMultiReq (b : List Byte) : Except DecodeErr Msg :=
  if b.length < 7 then .error .malformed
  else if multiNeed (byteAt b 1) (rdBe16 b 4) ≠ (byteAt b 6).toNat then .error .malformed
  else if b.length ≠ 7 + (byteAt b 6).toNat then .error .malformed
  else .ok { kind := .request, sid := byteAt b 0, fc := byteAt b 1, addr := rdBe16 b 2, count := rdBe16 b 4,
             values := multiCells (byteAt b 1) (rdBe16 b 4) (b.drop 7) }

/-- WMULTI response body (R164). -/
def decodeMultiRsp (b : List Byte) : Except DecodeErr Msg :=
  if b.length ≠ 6 then .error .malformed
  else .ok { kind := .response, sid := byteAt b 0, fc := byteAt b 1, addr := rdBe16 b 2, count := rdBe16 b 4 }

/-- DIAG body (R165). It has no byte count, so more than 255 data bytes decode here (log 18). -/
def decodeDiag (b : List Byte) (role : Role) : Except DecodeErr Msg :=
  if b.length < 4 ∨ (b.length - 4) % 2 ≠ 0 then .error .malformed
  else if 65535 < (b.length - 4) / 2 then .error .malformed
  else .ok { kind := role.kind, sid := byteAt b 0, fc := byteAt b 1, addr := rdBe16 b 2,
             count := BitVec.ofNat 16 ((b.length - 4) / 2), values := (wordsFrom (b.drop 4)).map .raw }

/-- `decodeBody(b, role)` (R158), with the exception predicate first in the response role (R157). -/
def decodeBody (b : List Byte) (role : Role) : Except DecodeErr Msg :=
  if b.length < 2 then .error .malformed
  else if role = .response ∧ isExc b = true then decodeExcBody b
  else
    match shape (byteAt b 1) with
    | .none => .error .unknownFunction
    | .read => match role with
      | .request => decodeReadReq b
      | .response => decodeReadRsp b
    | .wsingle => decodeSingle b role
    | .wmulti => match role with
      | .request => decodeMultiReq b
      | .response => decodeMultiRsp b
    | .diag => decodeDiag b role

/-- `decodeFrame(buf, verify, role)` (R166): with `verify`, the CRC trailer is checked "before any further parsing is attempted". -/
def decodeFrame (buf : List Byte) (verify : Bool) (role : Role) : Except DecodeErr Msg :=
  if verify then
    if buf.length < 2 then .error .malformed
    else if crcCheck buf = false then .error .invalidCrc
    else decodeBody (buf.take (buf.length - 2)) role
  else decodeBody buf role

/-- The body EXC_TEST looks at (R170): with V, all but the last two bytes, or nothing when there are fewer than two. -/
def excTestBody (v : Bool) (acc : List Byte) : List Byte :=
  if v then (if 2 ≤ acc.length then acc.take (acc.length - 2) else []) else acc

/-- ENCODE_REQ (R154). TXB_LEN is the length of TXBUF (20_memory.md R65). -/
def execEncodeReq (s : State) : Host.Outcome State Fault Refusal :=
  .next (finish .ok { s with txb := { s.txb with bytes := encodeReqBody (txMessage s) } })

/-- ENCODE_RSP (R155). -/
def execEncodeRsp (s : State) : Host.Outcome State Fault Refusal :=
  .next (finish .ok { s with txb := { s.txb with bytes := encodeRspBody (txMessage s) } })

/-- ENCODE_EXC (R156). -/
def execEncodeExc (s : State) : Host.Outcome State Fault Refusal :=
  .next (finish .ok { s with txb := { s.txb with bytes := encodeExcBody (txMessage s) } })

/-- DECODE_REQ (R168): `commitRx(msg, 0, ACC_LEN)` on a message, nothing but the code on an error. -/
def execDecodeReq (v : Bool) (s : State) : Host.Outcome State Fault Refusal :=
  .next (settleDecode (decodeFrame s.acc.bytes v .request) 0 s.acc.bytes.length s)

/-- DECODE_RSP (R169). -/
def execDecodeRsp (v : Bool) (s : State) : Host.Outcome State Fault Refusal :=
  .next (settleDecode (decodeFrame s.acc.bytes v .response) 0 s.acc.bytes.length s)

/-- EXC_TEST (R170): STATUS.PRED, "the CRC is not checked". -/
def execExcTest (v : Bool) (s : State) : Host.Outcome State Fault Refusal :=
  .next (finish .ok { s with status := { s.status with pred := isExc (excTestBody v s.acc.bytes) } })

end Sys2Proof.Machine
end

