-- ==== Sys2Proof/Machine/Framing.lean ====
section
/-! DEFINITION. Transport framing (43_framing.md): the RTU and MBAP framing functions (R190, R193), the MBAP deframer (R195) and the four
commands (R191, R194, R196, R197). -/

namespace Sys2Proof.Machine

/-- `rtuFrame(body) = body ++ le16(crc16(body))` (R190). -/
def rtuFrame (body : List Byte) : List Byte := body ++ le16 (crc16 body)

/-- `mbapFrame(tid, body) = be16(tid) ++ [00 00] ++ be16(len(body) mod 2^16) ++ body` (R193). -/
def mbapFrame (tid : Half) (body : List Byte) : List Byte :=
  be16 tid ++ [0x00#8, 0x00#8] ++ be16 (BitVec.ofNat 16 body.length) ++ body

/-- What the MBAP deframer answers (R195): no header yet, or the transaction ID, the decode, and the frame's length. -/
inductive MbapResult where
  | noHeader
  | header (tid : Half) (r : Except DecodeErr Msg) (len : Nat)

/-- The payload length the header declares (R195): bytes 4 and 5. -/
def mbapLength (buf : List Byte) : Nat := (rdBe16 buf 4).toNat

/-- `mbapParse(buf, role)` (R195): the payload is exactly the L bytes the header declares; bytes 2 and 3 are not checked. A frame whose length
was cut to 16 bits on encoding may so decode as a shorter message, against 70_reset_and_hazards.md R301's words: DEDUCED, log 18. -/
def mbapParse (buf : List Byte) (role : Role) : MbapResult :=
  if buf.length < 6 then .noHeader
  else if mbapLength buf < 2 then .header (rdBe16 buf 0) (.error .malformed) 0
  else if buf.length < 6 + mbapLength buf then .header (rdBe16 buf 0) (.error .malformed) 0
  else .header (rdBe16 buf 0) (decodeFrame ((buf.drop 6).take (mbapLength buf)) false role) (6 + mbapLength buf)

/-- The pseudocode of MBAP_DEFRAME_REQ and MBAP_DEFRAME_RSP (R196, R197): TID_RX whenever the header is complete, then as a decode. -/
def settleMbap (h : MbapResult) (s : State) : State :=
  match h with
  | .noHeader => finish .malformed s
  | .header tid r n => settleDecode r 0 n { s with tidRx := tid }

/-- RTU_FRAME (R191): "The CRC register is not written." -/
def execRtuFrame (s : State) : Host.Outcome State Fault Refusal :=
  .next (finish .ok { s with txb := { s.txb with bytes := rtuFrame s.txb.bytes } })

/-- MBAP_FRAME (R194). -/
def execMbapFrame (imm : Half) (s : State) : Host.Outcome State Fault Refusal :=
  .next (finish .ok { s with txb := { s.txb with bytes := mbapFrame imm s.txb.bytes } })

/-- MBAP_DEFRAME_REQ (R196). -/
def execMbapDeframeReq (s : State) : Host.Outcome State Fault Refusal := .next (settleMbap (mbapParse s.acc.bytes .request) s)

/-- MBAP_DEFRAME_RSP (R197). -/
def execMbapDeframeRsp (s : State) : Host.Outcome State Fault Refusal := .next (settleMbap (mbapParse s.acc.bytes .response) s)

end Sys2Proof.Machine
end

