-- ==== Sys2Proof/Machine/Connection.lean ====
section
/-! DEFINITION. The connection commands (44_connection.md sections 1 to 3): OPEN_* (R210), CLOSE (R211), SEND_* (R213 to R217) and the start
of an exchange (R218, R219). -/

namespace Sys2Proof.Machine

/-- The pseudocode of OPEN_RTU and OPEN_TCP (R210): illegal while open, else a new lifetime with a fresh counter. -/
def openWith (t : Transport) (s : State) : State :=
  if s.status.isOpen then finish .illegalCommand s
  else
    finish .ok (setFsm .idle
      { s with
        status := { s.status with isOpen := true, transport := t }
        closeIssued := false
        tidNext := s.params.tidInit })

/-- `if close_issued = 0 then chan_close(); close_issued <- 1` (R211): "the channel is closed once". -/
def closeChannelOnce (s : State) : State := if s.closeIssued then s else { chanClose s with closeIssued := true }

/-- The pseudocode of CLOSE (R211): it aborts an exchange in progress. -/
def closeConnection (s : State) : State :=
  let s1 := closeChannelOnce s
  let s2 := { s1 with status := { s1.status with isOpen := false } }
  if s.status.busy then finish .connectionClosed (setFsm .failed s2) else finish .ok (setFsm .idle s2)

/-- `frameFor(body, tid)` (R213). -/
def frameFor (t : Transport) (body : List Byte) (tid : Half) : List Byte :=
  match t with
  | .rtu => rtuFrame body
  | .tcp => mbapFrame tid body

/-- `writeDone(a)` (R217). -/
def writeDone (a : WriteAnswer) (s : State) : State :=
  match a with
  | .ok => finish .ok s
  | .err => finish (transportFailure s.status.transport) s

/-- The last lines of SEND_* (R214): the frame into TXBUF, the channel write, the report. -/
def sendFrame (f : List Byte) (s : State) : State :=
  let s1 := { s with txb := { s.txb with bytes := f } }
  writeDone (writeAnswer s1) (chanWrite f s1)

/-- The transaction ID a request takes (R214): TID_NEXT on TCP, which then becomes TID_OUT and advances; 0 on RTU, which touches
neither. -/
def assignTid (s : State) : State :=
  match s.status.transport with
  | .tcp => { s with tidOut := s.tidNext, tidNext := s.tidNext + 1#16 }
  | .rtu => s

/-- The transaction ID a reply carries (R215, R216): TID_RX on TCP. -/
def replyTid (s : State) : Half :=
  match s.status.transport with
  | .tcp => s.tidRx
  | .rtu => 0#16

/-- SEND_RESPONSE and SEND_EXCEPTION (R215, R216): as R214 with the reply's ID. -/
def sendReply (body : List Byte) (s : State) : State :=
  if s.status.isOpen then sendFrame (frameFor s.status.transport body (replyTid s)) s else finish .connectionClosed s

/-- The pseudocode of AWAIT_RESPONSE and AWAIT_REQUEST (R218, R219). "RESULT is written at the end." -/
def startExchange (role : Role) (s : State) : State :=
  if s.status.isOpen then
    { s with
      acc := { bytes := [], idx := 0#32 }
      reads := 0#32
      status := { s.status with lastErr := none, role := role, fsm := .awaitingFrame, busy := true, done := false } }
  else finish .connectionClosed s

/-- OPEN_RTU (R210). -/
def execOpenRtu (s : State) : Host.Outcome State Fault Refusal := .next (openWith .rtu s)

/-- OPEN_TCP (R210). -/
def execOpenTcp (s : State) : Host.Outcome State Fault Refusal := .next (openWith .tcp s)

/-- CLOSE (R211). -/
def execClose (s : State) : Host.Outcome State Fault Refusal := .next (closeConnection s)

/-- SEND_REQUEST (R214). -/
def execSendRequest (s : State) : Host.Outcome State Fault Refusal :=
  .next (
    if s.status.isOpen then sendFrame (frameFor s.status.transport (encodeReqBody (txMessage s)) s.tidNext) (assignTid s)
    else finish .connectionClosed s)

/-- SEND_RESPONSE (R215). -/
def execSendResponse (s : State) : Host.Outcome State Fault Refusal := .next (sendReply (encodeRspBody (txMessage s)) s)

/-- SEND_EXCEPTION (R216). -/
def execSendException (s : State) : Host.Outcome State Fault Refusal := .next (sendReply (encodeExcBody (txMessage s)) s)

/-- AWAIT_RESPONSE (R218). -/
def execAwaitResponse (s : State) : Host.Outcome State Fault Refusal := .next (startExchange .response s)

/-- AWAIT_REQUEST (R219). -/
def execAwaitRequest (s : State) : Host.Outcome State Fault Refusal := .next (startExchange .request s)

end Sys2Proof.Machine
end

