-- ==== Sys2Proof/Machine/ReadLoop.lean ====
section
/-! DEFINITION. The read loop (44_connection.md R220 to R235): the frame synchronisers (R228 to R230), the attempt (R227), the ends of an
exchange (R231, R233 to R235) and the block engine's read step (R222). -/

namespace Sys2Proof.Machine

/-- What a synchroniser answers (R227): a frame with its start and length, a fatal code, or a recoverable error. -/
inductive Sync where
  | found (m : Msg) (start len : Nat)
  | fatal (code : ResultCode)
  | notYet (e : DecodeErr)

/-- The suffix scan of R228 from offset `s` on: the first suffix whose CRC checks and whose body decodes. -/
def rtuScan (role : Role) : Nat → List Byte → Option (Msg × Nat × Nat)
  | _, [] => none
  | s, b :: bs =>
    match decodeFrame (b :: bs) true role with
    | .ok m => some (m, s, (b :: bs).length)
    | .error _ => rtuScan role (s + 1) bs

/-- `e0` (R228): "the Err code of the attempt at s = 0". It is read only where no suffix decodes. -/
def firstErr (r : Except DecodeErr Msg) : DecodeErr :=
  match r with
  | .ok _ => .malformed
  | .error e => e

/-- `rtuSync(role)` (R228): every suffix of ACC, longest first. An empty ACC, which no read step leaves, reports the code of its
one attempt, MALFORMED (log 11). -/
def rtuSync (acc : List Byte) (role : Role) : Sync :=
  match rtuScan role 0 acc with
  | some (m, s, n) => .found m s n
  | none => .notYet (firstErr (decodeFrame acc true role))

/-- The rest of `tcpSync(role)` once the header is complete (R229, R230): the transaction ID first, "regardless of payload
validity". -/
def tcpJudge (role : Role) (tidOut tid : Half) (r : Except DecodeErr Msg) (n : Nat) : Sync :=
  if role = .response ∧ tid ≠ tidOut then .fatal .invalidMessageId
  else
    match r with
    | .ok m => .found m 0 n
    | .error e => .notYet e

/-- `fatal(code)` (R235). -/
def fatal (code : ResultCode) (s : State) : State := finish code (setFsm .failed s)

/-- `accept(msg, s, n)` (R231). -/
def accept (m : Msg) (start n : Nat) (s : State) : State := finish (successCode m) (setFsm .decoded (commitRx m start n s))

/-- `notYet(e)` (R233): LASTERR, then TIMEOUT at the read limit (R234), else Retrying. -/
def notYet (e : DecodeErr) (s : State) : State :=
  let s1 := { s with status := { s.status with lastErr := some e } }
  if limitReached s.params.readLimit s.reads then fatal .timeout s1 else setFsm .retrying s1

/-- What the attempt does with the synchroniser's answer (R227). -/
def settleSync (o : Sync) (s : State) : State :=
  match o with
  | .found m start n => accept m start n s
  | .fatal code => fatal code s
  | .notYet e => notYet e s

/-- `attempt()` (R227): the synchroniser of the transport, in the role of the exchange. TID_RX takes the ID of a complete MBAP header
(R229). -/
def attempt (s : State) : State :=
  match s.status.transport with
  | .rtu => settleSync (rtuSync s.acc.bytes s.status.role) s
  | .tcp =>
    match mbapParse s.acc.bytes s.status.role with
    | .noHeader => settleSync (.notYet .malformed) s
    | .header tid r n => settleSync (tcpJudge s.status.role s.tidOut tid r n) { s with tidRx := tid }

/-- What the read step does with the channel's answer (R222 to R226). -/
def afterRead (a : ReadAnswer) (s : State) : State :=
  match a with
  | .closed => fatal .connectionClosed s
  | .timedOut => fatal .timeout s
  | .ioError => fatal (transportFailure s.status.transport) s
  | .data bs => attempt (appendAcc bs s)

/-- The read step of the block engine (R222): one read, one answer. An answer outside R212's shapes "is not in the model"
(93_implementation_defined.md U16, log 12). -/
def readStep (s : State) : Host.Outcome State Fault Refusal :=
  if (readAnswer s).wf then .next (afterRead (readAnswer s) (chanRead s)) else .refused .channelAnswerOutsideContract

end Sys2Proof.Machine
end

