-- ==== Sys2Proof/Machine/Dispatch.lean ====
section
/-! DEFINITION. What an accepted command does: one arm per row of the opcode map (30_encoding.md R82). -/

namespace Sys2Proof.Machine

/-- The effect of an accepted command (10_state.md R33). Acceptance itself is `runCommand` (20_memory.md R66, log 8). -/
def exec (i : Instr) (s : State) : Host.Outcome State Fault Refusal :=
  match i with
  | .nop => Sys2Proof.Machine.execNop s
  | .crcInit => Sys2Proof.Machine.execCrcInit s
  | .crcUpdate imm => Sys2Proof.Machine.execCrcUpdate imm s
  | .crcSpanTx => Sys2Proof.Machine.execCrcSpanTx s
  | .crcSpanAcc => Sys2Proof.Machine.execCrcSpanAcc s
  | .classify imm => Sys2Proof.Machine.execClassify imm s
  | .setCount imm => Sys2Proof.Machine.execSetCount imm s
  | .encodeReq => Sys2Proof.Machine.execEncodeReq s
  | .encodeRsp => Sys2Proof.Machine.execEncodeRsp s
  | .encodeExc => Sys2Proof.Machine.execEncodeExc s
  | .decodeReq v => Sys2Proof.Machine.execDecodeReq v s
  | .decodeRsp v => Sys2Proof.Machine.execDecodeRsp v s
  | .excTest v => Sys2Proof.Machine.execExcTest v s
  | .rtuFrame => Sys2Proof.Machine.execRtuFrame s
  | .mbapFrame imm => Sys2Proof.Machine.execMbapFrame imm s
  | .mbapDeframeReq => Sys2Proof.Machine.execMbapDeframeReq s
  | .mbapDeframeRsp => Sys2Proof.Machine.execMbapDeframeRsp s
  | .openRtu => Sys2Proof.Machine.execOpenRtu s
  | .openTcp => Sys2Proof.Machine.execOpenTcp s
  | .close => Sys2Proof.Machine.execClose s
  | .sendRequest => Sys2Proof.Machine.execSendRequest s
  | .sendResponse => Sys2Proof.Machine.execSendResponse s
  | .sendException => Sys2Proof.Machine.execSendException s
  | .awaitResponse => Sys2Proof.Machine.execAwaitResponse s
  | .awaitRequest => Sys2Proof.Machine.execAwaitRequest s

end Sys2Proof.Machine
end

