-- ==== Sys2Proof/Machine/HostPort.lean ====
section
/-! DEFINITION. The host register space (20_memory.md R60 to R66, 10_state.md R49, R51): the register map, reads, writes, the acceptance of a
command, and the host's step. -/

namespace Sys2Proof.Machine

/-- The host-visible registers, in the order of R51. -/
inductive Reg where
  | cmd | status | cls | crc | tidNext | tidOut | tidRx | reads
  | txmSid | txmFc | txmAddr | txmCount | txmErr | txvIdx | txvData
  | txbLen | txbIdx | txbData | accLen | accIdx | accData
  | rxmKind | rxmSid | rxmFc | rxmAddr | rxmCount | rxmVlen | rxmErr | rxvIdx | rxvData | rxStart | rxLen
deriving DecidableEq, Repr

/-- The registers, in the order of R51. -/
def Reg.all : List Reg :=
  [.cmd, .status, .cls, .crc, .tidNext, .tidOut, .tidRx, .reads] ++
  [.txmSid, .txmFc, .txmAddr, .txmCount, .txmErr, .txvIdx, .txvData] ++
  [.txbLen, .txbIdx, .txbData, .accLen, .accIdx, .accData] ++
  [.rxmKind, .rxmSid, .rxmFc, .rxmAddr, .rxmCount, .rxmVlen, .rxmErr, .rxvIdx, .rxvData, .rxStart, .rxLen]

/-- The offset column of R51. -/
def Reg.offset : Reg → Nat
  | .cmd => 0x00
  | .status => 0x04
  | .cls => 0x08
  | .crc => 0x0C
  | .tidNext => 0x10
  | .tidOut => 0x14
  | .tidRx => 0x18
  | .reads => 0x1C
  | .txmSid => 0x20
  | .txmFc => 0x24
  | .txmAddr => 0x28
  | .txmCount => 0x2C
  | .txmErr => 0x30
  | .txvIdx => 0x34
  | .txvData => 0x38
  | .txbLen => 0x3C
  | .txbIdx => 0x40
  | .txbData => 0x44
  | .accLen => 0x48
  | .accIdx => 0x4C
  | .accData => 0x50
  | .rxmKind => 0x54
  | .rxmSid => 0x58
  | .rxmFc => 0x5C
  | .rxmAddr => 0x60
  | .rxmCount => 0x64
  | .rxmVlen => 0x68
  | .rxmErr => 0x6C
  | .rxvIdx => 0x70
  | .rxvData => 0x74
  | .rxStart => 0x78
  | .rxLen => 0x7C

/-- The register at an offset (R51); `none` is a reserved offset (R49). -/
def Reg.ofOffset (off : Nat) : Option Reg := Reg.all.find? fun r => r.offset == off

/-- The access column of R51. -/
inductive Access where
  | wo
  | ro
  | roW1c
  | rw
deriving DecidableEq, Repr

/-- The access column of R51. -/
def Reg.access : Reg → Access
  | .cmd => .wo
  | .status => .roW1c
  | .cls | .crc | .tidOut | .tidRx | .reads | .txmCount => .ro
  | .tidNext | .txmSid | .txmFc | .txmAddr | .txmErr | .txvIdx | .txvData => .rw
  | .txbLen | .txbIdx | .txbData | .accLen | .accIdx | .accData => .rw
  | .rxmKind | .rxmSid | .rxmFc | .rxmAddr | .rxmCount | .rxmVlen | .rxmErr => .ro
  | .rxvIdx => .rw
  | .rxvData | .rxStart | .rxLen => .ro

/-- The value a read of a register returns (R62): its fields in their places, all other bits 0; CMD reads 0 (R33). -/
def readReg (r : Reg) (s : State) : Word :=
  match r with
  | .cmd => 0#32
  | .status => statusWord s.status
  | .cls => classWord s.cls
  | .crc => s.crc.setWidth 32
  | .tidNext => s.tidNext.setWidth 32
  | .tidOut => s.tidOut.setWidth 32
  | .tidRx => s.tidRx.setWidth 32
  | .reads => s.reads
  | .txmSid => s.txm.sid.setWidth 32
  | .txmFc => s.txm.fc.setWidth 32
  | .txmAddr => s.txm.addr.setWidth 32
  | .txmCount => s.txmCount.setWidth 32
  | .txmErr => s.txm.err.setWidth 32
  | .txvIdx => s.txm.idx.setWidth 32
  | .txvData => readCellPort s.txm.cells s.txm.idx
  | .txbLen => wordOfLength s.txb.bytes.length
  | .txbIdx => s.txb.idx
  | .txbData => s.txb.readPort
  | .accLen => wordOfLength s.acc.bytes.length
  | .accIdx => s.acc.idx
  | .accData => s.acc.readPort
  | .rxmKind => (kindCode s.rx.kind).setWidth 32
  | .rxmSid => s.rx.sid.setWidth 32
  | .rxmFc => s.rx.fc.setWidth 32
  | .rxmAddr => s.rx.addr.setWidth 32
  | .rxmCount => s.rx.count.setWidth 32
  | .rxmVlen => (BitVec.ofNat 16 s.rx.cells.length).setWidth 32
  | .rxmErr => s.rx.err.setWidth 32
  | .rxvIdx => s.rx.idx.setWidth 32
  | .rxvData => readCellPort s.rx.cells s.rx.idx
  | .rxStart => s.rx.start
  | .rxLen => s.rx.len

/-- `HostRead(off)` (R62): the register's value, or 0 at a reserved offset (R49). -/
def hostRead (off : Nat) (s : State) : Word :=
  match Reg.ofOffset off with
  | some r => readReg r s
  | none => 0#32

/-- The effect of a write that is taken on a register (R61): the field bits of an RW register; nothing on an RO one. CMD and STATUS
are `runCommand` and `writeStatus`. -/
def writeReg (r : Reg) (v : Word) (s : State) : State :=
  match r with
  | .tidNext => { s with tidNext := v.setWidth 16 }
  | .txmSid => { s with txm := { s.txm with sid := v.setWidth 8 } }
  | .txmFc => { s with txm := { s.txm with fc := v.setWidth 8 } }
  | .txmAddr => { s with txm := { s.txm with addr := v.setWidth 16 } }
  | .txmErr => { s with txm := { s.txm with err := v.setWidth 8 } }
  | .txvIdx => { s with txm := { s.txm with idx := v.setWidth 16 } }
  | .txvData => { s with txm := { s.txm with cells := writeCellPort s.txm.cells s.txm.idx v } }
  | .txbLen => { s with txb := s.txb.resize v.toNat }
  | .txbIdx => { s with txb := { s.txb with idx := v } }
  | .txbData => { s with txb := s.txb.writePort v }
  | .accLen => { s with acc := s.acc.resize (cappedLength s.params.accCap v.toNat) }
  | .accIdx => { s with acc := { s.acc with idx := v } }
  | .accData => { s with acc := s.acc.writePort v }
  | .rxvIdx => { s with rx := { s.rx with idx := v.setWidth 16 } }
  | .cmd | .status | .cls | .crc | .tidOut | .tidRx | .reads | .txmCount => s
  | .rxmKind | .rxmSid | .rxmFc | .rxmAddr | .rxmCount | .rxmVlen | .rxmErr | .rxvData | .rxStart | .rxLen => s

/-- A dropped write (20_memory.md R66): "it changes nothing except STATUS.OVR <- 1". -/
def dropWrite (s : State) : State := { s with status := { s.status with ovr := true } }

/-- A write of STATUS (10_state.md R25): bit 2 set clears OVR; "all other bits of a STATUS write are ignored". -/
def writeStatus (v : Word) (s : State) : State :=
  if v.getLsbD 2 then { s with status := { s.status with ovr := false } } else s

/-- The one command word taken while BUSY is 1 (20_memory.md R66): CLOSE. -/
def closeWord : Word := 0x00000011#32

/-- A write of CMD (10_state.md R33): while BUSY anything but CLOSE is dropped (20_memory.md R66); a word that matches no row reports
ILLEGAL_COMMAND "and changes no other state" (30_encoding.md R83); a command is executed at once. -/
def runCommand (w : Word) (s : State) : Host.Outcome State Fault Refusal :=
  if s.status.busy = true ∧ w ≠ closeWord then .next (dropWrite s)
  else
    match decode w with
    | .ok i => exec i s
    | .error _ => .next (finish .illegalCommand s)

/-- `HostWrite(off, v)` (R61, R66): by the register's access. A write to an RO register or a reserved offset changes nothing, not
even OVR (R49, R66). -/
def hostWrite (off : Nat) (v : Word) (s : State) : Host.Outcome State Fault Refusal :=
  match Reg.ofOffset off with
  | none => .next s
  | some r =>
    match r.access with
    | .wo => runCommand v s
    | .roW1c => .next (writeStatus v s)
    | .ro => .next s
    | .rw => if s.status.busy then .next (dropWrite s) else .next (writeReg r v s)

/-- Whether the host has a step for an access (20_memory.md R63): a whole 32-bit one at a multiple of 4. -/
def HostOp.inInterface : HostOp → Bool
  | .read off | .write off _ => off % 4 == 0
  | .subword _ _ => false

/-- A host access inside the interface (R60): a read is returned to the host (log 7), a write takes effect. -/
def hostAccess (op : HostOp) (s : State) : Host.Outcome State Fault Refusal :=
  match op with
  | .read off => .next { s with env := { s.env with hostReads := s.env.hostReads ++ [(off, hostRead off s)] } }
  | .write off v => hostWrite off v s
  | .subword _ _ => .fault .hostStuck

/-- The block engine's turn (44_connection.md R221): its read step if it has one, else nothing (log 13). -/
def engineTurn (s : State) : Host.Outcome State Fault Refusal := if engineEnabled s.status then readStep s else .next s

/-- The state with the first turn of the script used up. -/
def popTurn (s : State) : State := { s with env := { s.env with script := s.env.script.tail } }

/-- The step of the turn the script names (20_memory.md R76). A host access outside the interface has no step: the host stays stuck at
it (R63) and only the block engine goes on (log 6). With no turn listed the block engine goes on alone (log 13). -/
def takeTurn (s : State) : Host.Outcome State Fault Refusal :=
  match s.env.script with
  | [] => engineTurn s
  | .engine :: _ => engineTurn (popTurn s)
  | .reset :: _ => .next (resetAction (popTurn s))
  | .host op :: _ =>
    if op.inInterface then hostAccess op (popTurn s)
    else if engineEnabled s.status then readStep s
    else .fault .hostStuck

end Sys2Proof.Machine
end

