-- ==== Sys2Proof/Machine/Step.lean ====
section
/-! DEFINITION. One step of the machine (20_memory.md R72, R76), and the placing of a command where the next step takes it. -/

namespace Sys2Proof.Machine

/-- One indivisible step (20_memory.md R72): a host access, a read step of the block engine, or a reset. -/
def step (s : State) : Host.Outcome State Fault Refusal := takeTurn s

/-- The state in which the host's very next access writes a command word to CMD (10_state.md R33, log 8): the block fetches nothing,
"the first command is whatever the host writes to CMD first" (70_reset_and_hazards.md R291). -/
def State.withFetchWord (s : State) (nbits w : Nat) : State :=
  { s with env := { s.env with script := .host (.write 0 (BitVec.ofNat 32 (w % 2 ^ nbits))) :: s.env.script } }

end Sys2Proof.Machine
end

