-- ==== Sys2Proof/Safety.lean ====
section
/-! DEFINITION. What counts as a safe run, in the terms the statements use: the invariant of the block's states, the environments inside the
interface, and a run of commands. -/

namespace Sys2Proof.Machine

/-- What the RX registers hold together (10_state.md R45, 42_codec.md R159, R167): nothing but zeros while no message has been decoded
(RXV_IDX is the host's); an exception with its high bit cleared, a known error code, and no address, count or cells; an error
code of 0 for any other message. -/
def RxMsg.consistent (r : RxMsg) : Prop :=
  match r.kind with
  | none => r = { RxMsg.reset with idx := r.idx }
  | some .exception =>
    r.addr = 0#16 ∧ r.count = 0#16 ∧ r.cells = [] ∧ r.fc.getLsbD 7 = false ∧
      r.err ∈ [0x01#8, 0x02#8, 0x03#8, 0x04#8, 0x05#8, 0x06#8, 0x08#8, 0x0A#8, 0x0B#8]
  | some .request | some .response => r.err = 0#8

/-- The invariant of the block: it holds at reset and every step keeps it. -/
structure BlockInv (s : State) : Prop where
  /-- The parameters are ones R8 allows. -/
  paramsWf : s.params.wf = true
  /-- The buffers have their form: ACC within ACC_CAP (20_memory.md R75), at most 65535 cells (00_scope.md R8). -/
  memoryWf : Memory.wf s = true
  /-- "STATUS.BUSY is 1 exactly while an AWAIT_RESPONSE or AWAIT_REQUEST exchange has started and has not finished" (10_state.md R23). -/
  busyIffWaiting : s.status.busy = true ↔ s.status.fsm = .awaitingFrame ∨ s.status.fsm = .retrying
  /-- An exchange runs only on an open connection (44_connection.md R211, R218). -/
  busyOpen : s.status.busy = true → s.status.isOpen = true
  /-- DONE is 0 while an exchange runs (10_state.md R24). -/
  busyNotDone : s.status.busy = true → s.status.done = false
  /-- The channel has been told to close exactly when the connection is not open (10_state.md R26, R48). -/
  openIffNotClosed : s.status.isOpen = !s.closeIssued
  /-- AwaitingFrame is "the state after an exchange starts and before the first failed decode attempt" (10_state.md R30). -/
  awaitingFresh : s.status.fsm = .awaitingFrame → s.status.lastErr = none ∧ s.reads = 0#32 ∧ s.acc.bytes = []
  /-- Retrying is the state after a recoverable failure, with a read behind it and the read limit not reached (10_state.md R30, R32,
  44_connection.md R233, R234). -/
  retryingFailed : s.status.fsm = .retrying →
    s.status.lastErr ≠ none ∧ s.reads ≠ 0#32 ∧ s.acc.bytes ≠ [] ∧ limitReached s.params.readLimit s.reads = false
  /-- The RX registers are one message's (10_state.md R45). -/
  rxConsistent : s.rx.consistent

/-- A turn of the host inside the interface (20_memory.md R63). -/
def Turn.inInterface : Turn → Bool
  | .host op => op.inInterface
  | .engine | .reset => true

/-- The environment keeps its side: every host access to come is inside the interface (20_memory.md R63) and every channel answer to
come has its shape (44_connection.md R212). -/
def Env.inContract (e : Env) : Bool := e.script.all (·.inInterface) && e.readAnswers.all (·.wf)

/-- Commands executed one after the other, each accepted. -/
def execAll : List Instr → State → Host.Outcome State Fault Refusal
  | [], s => .next s
  | i :: is, s =>
    match exec i s with
    | .next t => execAll is t
    | .fault f => .fault f
    | .refused r => .refused r

/-- A byte run with one bit changed: bit `k mod 8` of byte `k div 8` (40_crc.md R139). -/
def flipBit (f : List Byte) (k : Nat) : List Byte := f.set (k / 8) (byteAt f (k / 8) ^^^ (1#8 <<< (k % 8)))

/-- STATUS after `finish(code)` (00_scope.md R13). -/
def Status.finished (st : Status) (code : ResultCode) : Status := { st with result := code, busy := false, done := true }

/-- How many times the channel has been told to close. -/
def closeCount (log : List ChanEvent) : Nat := log.countP (· == .close)

/-- The next step is the host's write of the command `i` to CMD. -/
def State.presents (s : State) (i : Instr) : Prop :=
  ∃ w rest, s.env.script = .host (.write 0 w) :: rest ∧ decode w = .ok i

/-- The next step is a reset from outside. -/
def State.resetNext (s : State) : Prop := ∃ rest, s.env.script = .reset :: rest

/-- The state after the channel answered a read with `bs` and before the attempt (44_connection.md R226): the bytes appended to ACC,
of which the last ACC_CAP are kept (20_memory.md R75), and READS counted up, saturating. The read has made one request of the channel,
of READ_CHUNK = 1024 bytes with READ_TIMEOUT (R222), and used up its answer (log 2, log 7). -/
def State.afterData (s : State) (bs : List Byte) : State :=
  { s with
    acc := { s.acc with
      bytes := match s.params.accCap with
        | none => s.acc.bytes ++ bs
        | some c => (s.acc.bytes ++ bs).drop ((s.acc.bytes ++ bs).length - c) }
    reads := if s.reads.toNat + 1 < 2 ^ 32 then s.reads + 1#32 else s.reads
    env := { s.env with
      readAnswers := s.env.readAnswers.tail
      draws := if s.env.readAnswers = [] then s.env.draws + 1 else s.env.draws
      chanLog := s.env.chanLog ++ [.read 1024 s.params.readTimeout (readAnswer s)] } }

/-- The end of an exchange with a frame (44_connection.md R231, 42_codec.md R167): the RX registers written together, FSM Decoded,
and the success code. -/
def State.withFrame (s : State) (m : Msg) (start len : Nat) : State :=
  { s with
    rx := { kind := some m.kind, sid := m.sid, fc := m.fc, addr := m.addr, count := m.count, err := m.err, cells := m.values,
            idx := 0#16, start := wordOfLength start, len := wordOfLength len }
    status := { s.status with
      fsm := .decoded
      result := if m.kind = .exception then .exceptionReceived else .ok
      busy := false
      done := true } }

/-- The end of an exchange with a failure (44_connection.md R235). -/
def State.withFailure (s : State) (code : ResultCode) : State :=
  { s with status := { s.status with fsm := .failed, result := code, busy := false, done := true } }

/-- An exchange that goes on after a recoverable failure, or ends with TIMEOUT at the read limit (44_connection.md R233, R234). -/
def State.withoutFrame (s : State) (e : DecodeErr) : State :=
  match s.params.readLimit with
  | none => { s with status := { s.status with lastErr := some e, fsm := .retrying } }
  | some n =>
    if n ≤ s.reads.toNat then
      { s with status := { s.status with lastErr := some e, fsm := .failed, result := .timeout, busy := false, done := true } }
    else { s with status := { s.status with lastErr := some e, fsm := .retrying } }

end Sys2Proof.Machine
end

