-- ==== Sys2Proof/Certificates/Slice0/Obligations.lean ====
section
/-! DEFINITION. The statements about the block, for the provers: encoding, the step and the host port, reset and the invariant, the CRC engine,
the classifier, the codec, framing, the connection, the read loop, and the whole machine. -/

open Sys2Proof Sys2Proof.Machine

/-! ## Encoding -/

/-- A word of each format and family, written out from the opcode map (30_encoding.md R81, R82), decodes to its command, and the
spec's own illegal words (95_test_vectors.md 3.3) to none. -/
def Obligations.SampleWordsDecodeToTheirCommands : Prop :=
  decode 0x00000000#32 = .ok .nop ∧
  decode 0x00110002#32 = .ok (.crcUpdate 0x11#8) ∧
  decode 0x00001003#32 = .ok .crcSpanAcc ∧
  decode 0x00030004#32 = .ok (.classify 0x03#8) ∧
  decode 0xFFFF0005#32 = .ok (.setCount 0xFFFF#16) ∧
  decode 0x0000010A#32 = .ok (.decodeRsp true) ∧
  decode 0x0001000D#32 = .ok (.mbapFrame 0x0001#16) ∧
  decode 0x00001010#32 = .ok .openTcp ∧
  decode 0x00000015#32 = .ok .awaitResponse ∧
  decode 0x00000017#32 = .error .reservedOp ∧
  decode 0x01110002#32 = .error .reservedBits ∧
  decode 0x00011010#32 = .error .reservedBits

/-- Decoding the word of a command gives the command back, with every operand at every value of its field (30_encoding.md R80 to
R83, R87). -/
def Obligations.DecodeOfEncodeGivesTheCommand : Prop :=
  ∀ i : Instr, decode (encode i) = .ok i

/-- A word that decodes to a command is that command's word: no bit of a legal word is ignored (30_encoding.md R80, R83). -/
def Obligations.EncodeOfDecodeGivesTheWord : Prop :=
  ∀ (w : Word) (i : Instr), decode w = .ok i → encode i = w

/-- "at most one row matches any word" (30_encoding.md R82). -/
def Obligations.AtMostOneRowMatchesAWord : Prop :=
  ∀ w : Word, (opcodeMap.filter fun r => w &&& r.mask == r.value).length ≤ 1

/-- 30_encoding.md R83: the row that matches gives the command; with no row the block reports ILLEGAL_COMMAND and changes no other state
(BUSY is 0 already); a word with OP 0x17 to 0xFF, with an always-reserved bit set, or with a bit set that its mnemonic's format does not
use (30_encoding.md R80, R81) matches no row; and the operands are IMM8, IMM16 and V of R87. -/
def Obligations.CommandDecodeSelectsTheRowOrReportsIllegal : Prop :=
  (∀ (w : Word) (r : Row), r ∈ opcodeMap → w &&& r.mask = r.value → decode w = .ok (r.build w)) ∧
  (∀ (s : State) (w : Word) (rest : List Turn), (∀ r ∈ opcodeMap, w &&& r.mask ≠ r.value) →
    s.env.script = .host (.write 0 w) :: rest → s.status.busy = false →
    step s = .next { s with
      status := { s.status with result := .illegalCommand, done := true }
      env := { s.env with script := rest } }) ∧
  (∀ w : Word,
    (0x17#8 ≤ w.extractLsb' 0 8 ∨ w.extractLsb' 9 3 ≠ 0#3 ∨ w.extractLsb' 13 3 ≠ 0#3 ∨
      (w.getLsbD 8 = true ∧ w.extractLsb' 0 8 ∉ [0x09#8, 0x0A#8, 0x0B#8]) ∨
      (w.getLsbD 12 = true ∧ w.extractLsb' 0 8 ∉ [0x03#8, 0x10#8]) ∨
      (w.extractLsb' 16 8 ≠ 0#8 ∧ w.extractLsb' 0 8 ∉ [0x02#8, 0x04#8, 0x05#8, 0x0D#8]) ∨
      (w.extractLsb' 24 8 ≠ 0#8 ∧ w.extractLsb' 0 8 ∉ [0x05#8, 0x0D#8])) →
    ∀ r ∈ opcodeMap, w &&& r.mask ≠ r.value) ∧
  (∀ (w : Word) (b : Byte), decode w = .ok (.crcUpdate b) ∨ decode w = .ok (.classify b) → b = w.extractLsb' 16 8) ∧
  (∀ (w : Word) (n : Half), decode w = .ok (.setCount n) ∨ decode w = .ok (.mbapFrame n) → n = w.extractLsb' 16 16) ∧
  (∀ (w : Word) (v : Bool), decode w = .ok (.decodeReq v) ∨ decode w = .ok (.decodeRsp v) ∨ decode w = .ok (.excTest v) →
    v = w.getLsbD 8)

/-! ## The step and the host port -/

/-- A command whose word the host writes to CMD is executed in that step, after the turn is used up, when the block is not busy or the
command is CLOSE (10_state.md R33, 20_memory.md R66, R72); and the word that `withFetchWord` places is executed in the very next step
(log 8). -/
def Obligations.StepRunsTheDecodedCommand : Prop :=
  (∀ (s : State) (w : Word) (i : Instr) (rest : List Turn), s.env.script = .host (.write 0 w) :: rest → decode w = .ok i →
    (s.status.busy = false ∨ w = 0x00000011#32) → step s = exec i { s with env := { s.env with script := rest } }) ∧
  (∀ (s : State) (i : Instr), s.status.busy = false → step (s.withFetchWord 32 (encode i).toNat) = exec i s)

/-- 20_memory.md R66: while BUSY is 1 a write of CMD other than CLOSE, or of any read-write register, changes nothing but OVR; a write of
STATUS and a CLOSE are taken. -/
def Obligations.BusyBlockDropsHostWrites : Prop :=
  ∀ s : State, s.status.busy = true →
    (∀ w : Word, w ≠ 0x00000011#32 → hostWrite 0x00 w s = .next { s with status := { s.status with ovr := true } }) ∧
    (∀ off ∈ [0x10, 0x20, 0x24, 0x28, 0x30, 0x34, 0x38, 0x3C, 0x40, 0x44, 0x48, 0x4C, 0x50, 0x70], ∀ v : Word,
      hostWrite off v s = .next { s with status := { s.status with ovr := true } }) ∧
    (∀ v : Word, v.getLsbD 2 = true → hostWrite 0x04 v s = .next { s with status := { s.status with ovr := false } }) ∧
    hostWrite 0x00 0x00000011#32 s = exec .close s

/-- 20_memory.md R62: a host read answers the register's value with the bits outside its fields 0 (the widths of 10_state.md R51), and
changes nothing of the block: the value goes to the host. RXM_VLEN reads the number of cells of RXV and RXV_DATA the cell at RXV_IDX in
the format of 30_encoding.md R105, or 0 at or beyond RXM_VLEN (10_state.md R45, R46), for a value array of at most 65535 cells
(00_scope.md R8). (STATUS, the TX value port, the buffer ports and the buffer lengths have statements of their own.) The log of
host reads is the model's own (log 7), the list of turns too (log 1). -/
def Obligations.HostReadsReturnFieldsAndChangeNothing : Prop :=
  (∀ (s : State) (off : Nat) (rest : List Turn), s.env.script = .host (.read off) :: rest → off % 4 = 0 →
    step s = .next { s with env := { s.env with
      script := rest
      hostReads := s.env.hostReads ++ [(off, hostRead off s)] } }) ∧
  (∀ s : State, hostRead 0x00 s = 0#32 ∧ hostRead 0x04 s &&& 0x0000F880#32 = 0#32 ∧ hostRead 0x08 s &&& 0xFFFF0088#32 = 0#32) ∧
  (∀ s : State, ∀ p ∈ [(0x0C, 16), (0x10, 16), (0x14, 16), (0x18, 16), (0x20, 8), (0x24, 8), (0x28, 16), (0x2C, 16), (0x30, 8),
      (0x34, 16), (0x38, 18), (0x44, 8), (0x50, 8), (0x54, 2), (0x58, 8), (0x5C, 8), (0x60, 16), (0x64, 16), (0x68, 16), (0x6C, 8),
      (0x70, 16), (0x74, 18)], (hostRead p.1 s).toNat < 2 ^ p.2) ∧
  (∀ s : State,
    (hostRead 0x08 s).extractLsb' 8 8 = s.cls.fc ∧ hostRead 0x0C s = s.crc.setWidth 32 ∧ hostRead 0x10 s = s.tidNext.setWidth 32 ∧
    hostRead 0x14 s = s.tidOut.setWidth 32 ∧ hostRead 0x18 s = s.tidRx.setWidth 32 ∧ hostRead 0x1C s = s.reads ∧
    hostRead 0x20 s = s.txm.sid.setWidth 32 ∧ hostRead 0x24 s = s.txm.fc.setWidth 32 ∧ hostRead 0x28 s = s.txm.addr.setWidth 32 ∧
    hostRead 0x30 s = s.txm.err.setWidth 32 ∧ hostRead 0x34 s = s.txm.idx.setWidth 32 ∧ hostRead 0x40 s = s.txb.idx ∧
    hostRead 0x4C s = s.acc.idx ∧ hostRead 0x58 s = s.rx.sid.setWidth 32 ∧ hostRead 0x5C s = s.rx.fc.setWidth 32 ∧
    hostRead 0x60 s = s.rx.addr.setWidth 32 ∧ hostRead 0x64 s = s.rx.count.setWidth 32 ∧ hostRead 0x6C s = s.rx.err.setWidth 32 ∧
    hostRead 0x70 s = s.rx.idx.setWidth 32 ∧ hostRead 0x78 s = s.rx.start ∧ hostRead 0x7C s = s.rx.len ∧
    hostRead 0x54 s = (match s.rx.kind with
      | some .request => 0#32
      | some .response => 1#32
      | some .exception => 2#32
      | none => 3#32)) ∧
  (∀ s : State, s.rx.cells.length ≤ 65535 →
    (hostRead 0x68 s).toNat = s.rx.cells.length ∧
    (s.rx.cells.length ≤ s.rx.idx.toNat → hostRead 0x74 s = 0#32) ∧
    (∀ c, s.rx.cells[s.rx.idx.toNat]? = some c →
      ((hostRead 0x74 s).extractLsb' 16 2, (hostRead 0x74 s).extractLsb' 0 16, (hostRead 0x74 s).extractLsb' 18 14) =
        match c with
        | .bit b => (0#2, if b then 1#16 else 0#16, 0#14)
        | .word w => (1#2, w, 0#14)
        | .raw r => (2#2, r, 0#14)))

/-- 10_state.md R22: STATUS reads each field at its bits, with the numbers of 30_encoding.md R109 and R110, and every other bit 0; it reads 0
after reset; and a host write of it clears OVR when its bit 2 is set and changes nothing else. -/
def Obligations.StatusReadsItsFieldsAtTheirBits : Prop :=
  ∀ s : State,
    (hostRead 0x04 s).getLsbD 0 = s.status.busy ∧
    (hostRead 0x04 s).getLsbD 1 = s.status.done ∧
    (hostRead 0x04 s).getLsbD 2 = s.status.ovr ∧
    (hostRead 0x04 s).getLsbD 3 = s.status.isOpen ∧
    (hostRead 0x04 s).getLsbD 4 = decide (s.status.transport = .tcp) ∧
    (hostRead 0x04 s).getLsbD 5 = s.status.pred ∧
    (hostRead 0x04 s).getLsbD 6 = decide (s.status.role = .response) ∧
    (hostRead 0x04 s).getLsbD 7 = false ∧
    (hostRead 0x04 s).extractLsb' 8 3 = (match s.status.fsm with
      | .idle => 0#3
      | .awaitingFrame => 1#3
      | .retrying => 2#3
      | .decoded => 3#3
      | .failed => 4#3) ∧
    (hostRead 0x04 s).extractLsb' 11 5 = 0#5 ∧
    (hostRead 0x04 s).extractLsb' 16 8 = (match s.status.result with
      | .ok => 0x00#8
      | .exceptionReceived => 0x01#8
      | .invalidCrc => 0x10#8
      | .malformed => 0x11#8
      | .unknownFunction => 0x12#8
      | .timeout => 0x20#8
      | .connectionClosed => 0x21#8
      | .invalidMessageId => 0x22#8
      | .protocolError => 0x23#8
      | .slaveDeviceFailure => 0x24#8
      | .illegalCommand => 0x30#8) ∧
    (hostRead 0x04 s).extractLsb' 24 8 = (match s.status.lastErr with
      | none => 0x00#8
      | some .invalidCrc => 0x10#8
      | some .malformed => 0x11#8
      | some .unknownFunction => 0x12#8) ∧
    (∀ (p : Params) (e : Env), hostRead 0x04 (State.resetWith p e) = 0#32) ∧
    (∀ v : Word, hostWrite 0x04 v s = .next { s with status := { s.status with ovr := s.status.ovr && !v.getLsbD 2 } })

/-- 10_state.md R49: an offset that R51 does not list (none of the 32 multiples of 4 below 0x80) reads 0 and ignores a write, busy or not,
and not even OVR is set. (The rule's words "any offset not listed" take in an aligned offset of 0x100 or more too; log 6.) -/
def Obligations.ReservedOffsetsReadZeroAndIgnoreWrites : Prop :=
  ∀ (s : State) (off : Nat) (v : Word), (∀ k < 32, off ≠ 4 * k) → hostRead off s = 0#32 ∧ hostWrite off v s = .next s

/-- 20_memory.md R61. With the block not busy, a read-write register takes its field bits and ignores the others (the data ports and the
lengths by R44, R64 and R65), and CMD presents its word. Busy or not, a write of STATUS changes only OVR, a read-only register or a
reserved offset changes nothing, and no write but a command's writes RESULT. -/
def Obligations.RegisterWritesTakeTheirFieldBits : Prop :=
  ∀ (s : State) (v : Word),
    (s.status.busy = false →
      hostWrite 0x10 v s = .next { s with tidNext := v.extractLsb' 0 16 } ∧
      hostWrite 0x20 v s = .next { s with txm := { s.txm with sid := v.extractLsb' 0 8 } } ∧
      hostWrite 0x24 v s = .next { s with txm := { s.txm with fc := v.extractLsb' 0 8 } } ∧
      hostWrite 0x28 v s = .next { s with txm := { s.txm with addr := v.extractLsb' 0 16 } } ∧
      hostWrite 0x30 v s = .next { s with txm := { s.txm with err := v.extractLsb' 0 8 } } ∧
      hostWrite 0x34 v s = .next { s with txm := { s.txm with idx := v.extractLsb' 0 16 } } ∧
      hostWrite 0x40 v s = .next { s with txb := { s.txb with idx := v } } ∧
      hostWrite 0x4C v s = .next { s with acc := { s.acc with idx := v } } ∧
      hostWrite 0x70 v s = .next { s with rx := { s.rx with idx := v.extractLsb' 0 16 } } ∧
      hostWrite 0x38 v s = .next { s with txm := { s.txm with cells := writeCellPort s.txm.cells s.txm.idx v } } ∧
      hostWrite 0x3C v s = .next { s with txb := s.txb.resize v.toNat } ∧
      hostWrite 0x44 v s = .next { s with txb := s.txb.writePort v } ∧
      hostWrite 0x48 v s = .next { s with acc := s.acc.resize (cappedLength s.params.accCap v.toNat) } ∧
      hostWrite 0x50 v s = .next { s with acc := s.acc.writePort v } ∧
      (∀ i, decode v = .ok i → hostWrite 0x00 v s = exec i s) ∧
      (∀ e, decode v = .error e → hostWrite 0x00 v s = .next { s with status := s.status.finished .illegalCommand })) ∧
    hostWrite 0x04 v s = .next { s with status := { s.status with ovr := s.status.ovr && !v.getLsbD 2 } } ∧
    (∀ off ∈ [0x08, 0x0C, 0x14, 0x18, 0x1C, 0x2C, 0x54, 0x58, 0x5C, 0x60, 0x64, 0x68, 0x6C, 0x74, 0x78, 0x7C],
      hostWrite off v s = .next s) ∧
    (∀ off, (∀ k < 32, off ≠ 4 * k) → hostWrite off v s = .next s) ∧
    (∀ off t, off ≠ 0x00 → hostWrite off v s = .next t → t.status.result = s.status.result)

/-- 20_memory.md R64: a data port reads the byte at its index, or 0 at or beyond the length; a write sets that byte to `v[7:0]`, or does
nothing at or beyond the length; every other byte and every other element is unchanged. -/
def Obligations.BufferPortsReadAndWriteOneByte : Prop :=
  ∀ s : State,
    hostRead 0x44 s = (if h : s.txb.idx.toNat < s.txb.bytes.length then s.txb.bytes[s.txb.idx.toNat].setWidth 32 else 0#32) ∧
    hostRead 0x50 s = (if h : s.acc.idx.toNat < s.acc.bytes.length then s.acc.bytes[s.acc.idx.toNat].setWidth 32 else 0#32) ∧
    (∀ v : Word, s.status.busy = false →
      (s.txb.idx.toNat < s.txb.bytes.length →
        hostWrite 0x44 v s =
          .next { s with txb := { s.txb with bytes := s.txb.bytes.set s.txb.idx.toNat (v.extractLsb' 0 8) } }) ∧
      (s.txb.bytes.length ≤ s.txb.idx.toNat → hostWrite 0x44 v s = .next s) ∧
      (s.acc.idx.toNat < s.acc.bytes.length →
        hostWrite 0x50 v s =
          .next { s with acc := { s.acc with bytes := s.acc.bytes.set s.acc.idx.toNat (v.extractLsb' 0 8) } }) ∧
      (s.acc.bytes.length ≤ s.acc.idx.toNat → hostWrite 0x50 v s = .next s))

/-- 20_memory.md R65: a write of a length register cuts the buffer or fills it up with zeros, ACC to at most ACC_CAP bytes; and a length
register reads the length of its buffer (where it fits 32 bits; beyond that it is the free value of log 5). -/
def Obligations.LengthWritesResizeTheBuffer : Prop :=
  (∀ (s : State) (v : Word), s.status.busy = false →
    hostWrite 0x3C v s = .next { s with txb := { s.txb with
      bytes := if v.toNat ≤ s.txb.bytes.length then s.txb.bytes.take v.toNat
               else s.txb.bytes ++ List.replicate (v.toNat - s.txb.bytes.length) 0#8 } }) ∧
  (∀ (s : State) (v : Word) (n : Nat), s.status.busy = false →
    (n = match s.params.accCap with
      | none => v.toNat
      | some c => min c v.toNat) →
    hostWrite 0x48 v s = .next { s with acc := { s.acc with
      bytes := if n ≤ s.acc.bytes.length then s.acc.bytes.take n
               else s.acc.bytes ++ List.replicate (n - s.acc.bytes.length) 0#8 } }) ∧
  (∀ s : State, s.txb.bytes.length < 2 ^ 32 → (hostRead 0x3C s).toNat = s.txb.bytes.length) ∧
  (∀ s : State, s.acc.bytes.length < 2 ^ 32 → (hostRead 0x48 s).toNat = s.acc.bytes.length)

/-- 10_state.md R44, for a value array that TXM_COUNT counts (at most 65535 cells, 00_scope.md R8): TXV_DATA reads the cell at TXV_IDX in
the format of 30_encoding.md R105, or 0 at or beyond TXM_COUNT; a write with tag 0, 1 or 2 below TXM_COUNT sets the cell to
`Bit(data[0])`, `Word(data)` or `Raw(data)`; any other write changes nothing; TXV_IDX is read, written, and 0 after reset. -/
def Obligations.ValuePortReadsAndWritesOneCell : Prop :=
  ∀ s : State, s.txm.cells.length ≤ 65535 →
    (hostRead 0x2C s).toNat = s.txm.cells.length ∧
    (s.txm.cells.length ≤ s.txm.idx.toNat →
      hostRead 0x38 s = 0#32 ∧ ∀ v : Word, s.status.busy = false → hostWrite 0x38 v s = .next s) ∧
    (∀ c, s.txm.cells[s.txm.idx.toNat]? = some c →
      ((hostRead 0x38 s).extractLsb' 16 2, (hostRead 0x38 s).extractLsb' 0 16, (hostRead 0x38 s).extractLsb' 18 14) =
        match c with
        | .bit b => (0#2, if b then 1#16 else 0#16, 0#14)
        | .word w => (1#2, w, 0#14)
        | .raw r => (2#2, r, 0#14)) ∧
    (∀ v : Word, s.status.busy = false → s.txm.idx.toNat < s.txm.cells.length →
      (v.extractLsb' 16 2 = 0#2 → hostWrite 0x38 v s =
        .next { s with txm := { s.txm with cells := s.txm.cells.set s.txm.idx.toNat (.bit (v.getLsbD 0)) } }) ∧
      (v.extractLsb' 16 2 = 1#2 → hostWrite 0x38 v s =
        .next { s with txm := { s.txm with cells := s.txm.cells.set s.txm.idx.toNat (.word (v.extractLsb' 0 16)) } }) ∧
      (v.extractLsb' 16 2 = 2#2 → hostWrite 0x38 v s =
        .next { s with txm := { s.txm with cells := s.txm.cells.set s.txm.idx.toNat (.raw (v.extractLsb' 0 16)) } }) ∧
      (v.extractLsb' 16 2 = 3#2 → hostWrite 0x38 v s = .next s)) ∧
    hostRead 0x34 s = s.txm.idx.setWidth 32 ∧
    (∀ v : Word, s.status.busy = false →
      hostWrite 0x34 v s = .next { s with txm := { s.txm with idx := v.extractLsb' 0 16 } }) ∧
    (∀ (p : Params) (e : Env), (State.resetWith p e).txm.idx = 0#16)

/-- 20_memory.md R63: a host access of another width or at an offset that is no multiple of 4 has no step: the machine stops there when the
block engine has no step either, and otherwise only the engine goes on, the access still waiting (log 6). -/
def Obligations.AccessOutsideTheInterfaceIsStuck : Prop :=
  ∀ (s : State) (op : HostOp) (rest : List Turn), s.env.script = .host op :: rest →
    ((∃ width off, op = .subword width off) ∨ (∃ off, off % 4 ≠ 0 ∧ op = .read off) ∨ (∃ off v, off % 4 ≠ 0 ∧ op = .write off v)) →
    (engineEnabled s.status = false → step s = .fault .hostStuck) ∧ (engineEnabled s.status = true → step s = readStep s)

/-! ## Reset, the invariant, and what a run can rely on -/

/-- 10_state.md R50: every state element after reset, with any parameters and any environment; and `State.reset` is such a state. -/
def Obligations.ResetLeavesTheStatedValues : Prop :=
  State.reset = State.resetWith Config.params Env.initial ∧
  ∀ (p : Params) (e : Env),
    hostRead 0x0C (State.resetWith p e) = 0x0000FFFF#32 ∧
    hostRead 0x10 (State.resetWith p e) = p.tidInit.setWidth 32 ∧
    hostRead 0x54 (State.resetWith p e) = 3#32 ∧
    (∀ off, off ≠ 0x0C → off ≠ 0x10 → off ≠ 0x54 → hostRead off (State.resetWith p e) = 0#32) ∧
    (State.resetWith p e).txb.bytes = [] ∧ (State.resetWith p e).acc.bytes = [] ∧
    (State.resetWith p e).txm.cells = [] ∧ (State.resetWith p e).rx.cells = [] ∧
    (State.resetWith p e).closeIssued = true

/-- 70_reset_and_hazards.md R290: reset takes one step from any state, gives every element its reset value, and makes no channel request;
the parameters stay (R294). That the rest of the script, the channel's answers to come and the logs survive it is the model's choice of
log 10. -/
def Obligations.ResetRestoresEveryElementInOneStep : Prop :=
  ∀ (s : State) (rest : List Turn), s.env.script = .reset :: rest →
    step s = .next
      { status := { busy := false, done := false, ovr := false, isOpen := false, transport := .rtu, pred := false, role := .request,
                    fsm := .idle, result := .ok, lastErr := none }
        cls := { fc := 0#8, ftype := .unknown, rcat := .unknown }
        crc := 0xFFFF#16
        tidNext := s.params.tidInit
        tidOut := 0#16
        tidRx := 0#16
        reads := 0#32
        txb := { bytes := [], idx := 0#32 }
        acc := { bytes := [], idx := 0#32 }
        txm := { sid := 0#8, fc := 0#8, addr := 0#16, err := 0#8, cells := [], idx := 0#16 }
        rx := { kind := none, sid := 0#8, fc := 0#8, addr := 0#16, count := 0#16, err := 0#8, cells := [], idx := 0#16,
                start := 0#32, len := 0#32 }
        closeIssued := true
        params := s.params
        env := { s.env with script := rest } }

/-- The invariant holds after reset, with the parameters of Config and with any that 00_scope.md R8 allows. -/
def Obligations.InvariantHoldsAfterReset : Prop :=
  BlockInv State.reset ∧ ∀ (p : Params) (e : Env), p.wf = true → BlockInv (State.resetWith p e)

/-- Every step keeps the invariant: BUSY exactly in the waiting states (10_state.md R23), an exchange only on an open connection, DONE 0 while it
runs (R24), the channel told to close exactly when the connection is not open (R48), ACC within ACC_CAP (20_memory.md R75), the waiting
states with what they mean (R30, R32), and the RX registers one message's (R45). -/
def Obligations.EveryStepKeepsTheInvariant : Prop :=
  ∀ s t : State, BlockInv s → step s = .next t → BlockInv t

/-- While the environment keeps its side (every host access inside the interface, 20_memory.md R63; every channel answer in its shape,
44_connection.md R212), every step of every state answers a next state: no command and no read step ever stops the machine. -/
def Obligations.StepsInsideTheInterfaceNeverStop : Prop :=
  ∀ s : State, s.env.inContract = true → ∃ t, step s = .next t ∧ t.env.inContract = true

/-- The parameters "are fixed before reset and never change while the block runs" (70_reset_and_hazards.md R294). -/
def Obligations.ParametersNeverChange : Prop :=
  ∀ s t : State, step s = .next t → t.params = s.params

/-! ## The CRC engine -/

/-- CRC_INIT, CRC_UPDATE, CRC_SPAN_TX and CRC_SPAN_ACC run in every state and write the CRC register, RESULT, DONE (and BUSY, by `finish`) and
nothing else (40_crc.md R133 to R136). The CRC step is R130's: the byte XORed into the low half, then 8 times a logical shift right by
one, with 0xA001 XORed in where bit 0 was 1. -/
def Obligations.CrcCommandsWriteOnlyTheCrcRegister : Prop :=
  (∀ (c : Half) (b : Byte), crcStep c b =
    Nat.iterate (fun x : Half => if x.getLsbD 0 then (x >>> 1) ^^^ 0xA001#16 else x >>> 1) 8 (c ^^^ b.setWidth 16)) ∧
  ∀ s : State,
    exec .crcInit s = .next { s with crc := 0xFFFF#16, status := s.status.finished .ok } ∧
    (∀ b, exec (.crcUpdate b) s = .next { s with crc := crcStep s.crc b, status := s.status.finished .ok }) ∧
    exec .crcSpanTx s =
      .next { s with crc := s.txb.bytes.foldl crcStep 0xFFFF#16, status := s.status.finished .ok } ∧
    exec .crcSpanAcc s =
      .next { s with crc := s.acc.bytes.foldl crcStep 0xFFFF#16, status := s.status.finished .ok }

/-- 40_crc.md R137: CRC_INIT and then CRC_UPDATE of each byte leave `crc16` of the bytes in CRC, and the CRC of a run goes on from the CRC of its
first part. -/
def Obligations.StreamedCrcIsTheSpanCrc : Prop :=
  (∀ (s : State) (bs : List Byte), execAll (.crcInit :: bs.map .crcUpdate) s =
    .next { s with crc := crc16 bs, status := s.status.finished .ok }) ∧
  (∀ xs ys : List Byte, crc16 (xs ++ ys) = ys.foldl crcStep (crc16 xs))

/-- 40_crc.md R138: the CRC over a run and its own little-endian CRC is 0. -/
def Obligations.CrcOfAFramedRunIsZero : Prop :=
  ∀ p : List Byte, crc16 (p ++ le16 (crc16 p)) = 0x0000#16

/-- 40_crc.md R139: a correct RTU frame passes the check of R132, and with any one bit flipped, in the body or in the trailer, it fails it. -/
def Obligations.OneFlippedBitFailsTheCheck : Prop :=
  ∀ p : List Byte, crcCheck (rtuFrame p) = true ∧
    ∀ k < 8 * (p.length + 2), crcCheck (flipBit (rtuFrame p) k) = false

/-! ## The classifier and message setup -/

/-- NOP reports and changes nothing else (41_classify.md R140). CLASSIFY sets CLASS to FC, RCAT and FTYPE at their bits (R142), with the numbers
of 30_encoding.md R107 and the pair of the table of R141 for each recognised code, (Exception, Unknown) for a code with bit 7 set, and (Unknown, Unknown) for any other. -/
def Obligations.NopAndClassifyReport : Prop :=
  ∀ s : State,
    exec .nop s = .next { s with status := s.status.finished .ok } ∧
    ∀ c : Byte, ∃ ft rc,
      exec (.classify c) s = .next { s with cls := ⟨c, ft, rc⟩, status := s.status.finished .ok } ∧
      (∀ t, exec (.classify c) s = .next t →
        hostRead 0x08 t = (c.setWidth 32 <<< 8) |||
          (match rc with
            | .unknown => 0x00#32
            | .coil => 0x10#32
            | .discreteInput => 0x20#32
            | .holdingRegister => 0x30#32
            | .inputRegister => 0x40#32) |||
          (match ft with
            | .unknown => 0x0#32
            | .read => 0x1#32
            | .write => 0x2#32
            | .diagnostics => 0x3#32
            | .exception => 0x4#32)) ∧
      (c = 0x01#8 → ft = .read ∧ rc = .coil) ∧
      (c = 0x02#8 → ft = .read ∧ rc = .discreteInput) ∧
      (c = 0x03#8 → ft = .read ∧ rc = .holdingRegister) ∧
      (c = 0x04#8 → ft = .read ∧ rc = .inputRegister) ∧
      (c = 0x05#8 → ft = .write ∧ rc = .coil) ∧
      (c = 0x06#8 → ft = .write ∧ rc = .holdingRegister) ∧
      (c = 0x0F#8 → ft = .write ∧ rc = .coil) ∧
      (c = 0x10#8 → ft = .write ∧ rc = .holdingRegister) ∧
      (c = 0x08#8 → ft = .diagnostics ∧ rc = .unknown) ∧
      (c.getLsbD 7 = true → ft = .exception ∧ rc = .unknown) ∧
      (c.getLsbD 7 = false → c ∉ [0x01#8, 0x02#8, 0x03#8, 0x04#8, 0x05#8, 0x06#8, 0x08#8, 0x0F#8, 0x10#8] →
        ft = .unknown ∧ rc = .unknown)

/-- 41_classify.md R143: SET_COUNT gives TXV the length `n`, cut or filled up with the padding cell of TXM_FC; TXM_COUNT reads `n`; nothing else
but STATUS changes. -/
def Obligations.SetCountReshapesTheValues : Prop :=
  ∀ (s : State) (n : Half), ∃ t, exec (.setCount n) s = .next t ∧
    t = { s with
      txm := { s.txm with
        cells := if n.toNat ≤ s.txm.cells.length then s.txm.cells.take n.toNat
                 else s.txm.cells ++ List.replicate (n.toNat - s.txm.cells.length)
                   (if s.txm.fc ∈ [0x01#8, 0x02#8, 0x05#8, 0x0F#8] then .bit false else .word 0#16) }
      status := s.status.finished .ok } ∧
    t.txm.cells.length = n.toNat ∧ hostRead 0x2C t = n.setWidth 32

/-! ## The codec -/

/-- ENCODE_REQ, ENCODE_RSP and ENCODE_EXC run in every state and replace TXBUF by the body of the TX message; nothing else but STATUS changes
(42_codec.md R154 to R156). -/
def Obligations.EncodeCommandsReplaceTheTransmitBuffer : Prop :=
  ∀ s : State,
    exec .encodeReq s = .next { s with
      txb := { s.txb with bytes := encodeReqBody ⟨s.txm.sid, s.txm.fc, s.txm.addr, s.txmCount, s.txm.cells, s.txm.err⟩ }
      status := s.status.finished .ok } ∧
    exec .encodeRsp s = .next { s with
      txb := { s.txb with bytes := encodeRspBody ⟨s.txm.sid, s.txm.fc, s.txm.addr, s.txmCount, s.txm.cells, s.txm.err⟩ }
      status := s.status.finished .ok } ∧
    exec .encodeExc s = .next { s with
      txb := { s.txb with bytes := [s.txm.sid, s.txm.fc ||| 0x80#8, s.txm.err] }
      status := s.status.finished .ok }

/-- 42_codec.md R151: the request body of each shape class, with the codes of 30_encoding.md R88. The coercions of a value are written out
(00_scope.md R16), and each word is big-endian (20_memory.md R67). -/
def Obligations.RequestBodiesHaveTheirLayout : Prop :=
  ∀ m : TxRecord,
    let head := [m.sid, m.fc, m.addr.extractLsb' 8 8, m.addr.extractLsb' 0 8]
    let count := [m.count.extractLsb' 8 8, m.count.extractLsb' 0 8]
    let bit : Cell → Bool := fun
      | .bit b => b
      | .word w => w != 0#16
      | .raw r => r != 0#16
    let word : Cell → Half := fun
      | .bit b => if b then 1#16 else 0#16
      | .word w => w
      | .raw r => r
    let words := m.values.flatMap fun v => [(word v).extractLsb' 8 8, (word v).extractLsb' 0 8]
    (m.fc ∈ [0x01#8, 0x02#8, 0x03#8, 0x04#8] → encodeReqBody m = head ++ count) ∧
    (m.fc = 0x05#8 → encodeReqBody m = head ++
      (match m.values with
        | [] => [0x00#8, 0x00#8]
        | v :: _ => if bit v then [0xFF#8, 0x00#8] else [0x00#8, 0x00#8])) ∧
    (m.fc = 0x06#8 → encodeReqBody m = head ++
      (match m.values with
        | [] => [0x00#8, 0x00#8]
        | v :: _ => [(word v).extractLsb' 8 8, (word v).extractLsb' 0 8])) ∧
    (m.fc = 0x0F#8 → encodeReqBody m = head ++ count ++
      [BitVec.ofNat 8 (pack (m.values.map bit)).length] ++ pack (m.values.map bit)) ∧
    (m.fc = 0x10#8 → encodeReqBody m = head ++ count ++ [BitVec.ofNat 8 (2 * m.values.length)] ++ words) ∧
    (m.fc ∉ [0x01#8, 0x02#8, 0x03#8, 0x04#8, 0x05#8, 0x06#8, 0x0F#8, 0x10#8] → encodeReqBody m = head ++ words)

/-- 42_codec.md R152: the response body of each shape class: a read response has a byte count and no address, a single write echoes the request, a
multiple write answers its count and no values. Coercions and byte order are written out as in the statement above. -/
def Obligations.ResponseBodiesHaveTheirLayout : Prop :=
  ∀ m : TxRecord,
    let head := [m.sid, m.fc, m.addr.extractLsb' 8 8, m.addr.extractLsb' 0 8]
    let bit : Cell → Bool := fun
      | .bit b => b
      | .word w => w != 0#16
      | .raw r => r != 0#16
    let word : Cell → Half := fun
      | .bit b => if b then 1#16 else 0#16
      | .word w => w
      | .raw r => r
    let words := m.values.flatMap fun v => [(word v).extractLsb' 8 8, (word v).extractLsb' 0 8]
    (m.fc ∈ [0x01#8, 0x02#8] → encodeRspBody m =
      [m.sid, m.fc, BitVec.ofNat 8 (pack (m.values.map bit)).length] ++ pack (m.values.map bit)) ∧
    (m.fc ∈ [0x03#8, 0x04#8] → encodeRspBody m = [m.sid, m.fc, BitVec.ofNat 8 (2 * m.values.length)] ++ words) ∧
    (m.fc ∈ [0x05#8, 0x06#8] → encodeRspBody m = encodeReqBody m) ∧
    (m.fc ∈ [0x0F#8, 0x10#8] → encodeRspBody m = head ++ [m.count.extractLsb' 8 8, m.count.extractLsb' 0 8]) ∧
    (m.fc ∉ [0x01#8, 0x02#8, 0x03#8, 0x04#8, 0x05#8, 0x06#8, 0x0F#8, 0x10#8] → encodeRspBody m = head ++ words)

/-- 30_encoding.md R98: value `8j+k` of a packed run is bit `k` of byte `j`, the unused high bits of the last byte are 0, and unpacking gives the values
back, padded with zeros to a whole byte. -/
def Obligations.PackedBitsUnpackInOrder : Prop :=
  (∀ bs : List Bool, (pack bs).length = (bs.length + 7) / 8 ∧
    ∀ j < (pack bs).length, ∀ k < 8, (byteAt (pack bs) j).getLsbD k = bs.getD (8 * j + k) false) ∧
  (∀ ds : List Byte, (unpack ds).length = 8 * ds.length) ∧
  (∀ (ds : List Byte) (j k : Nat), k < 8 → (unpack ds).getD (8 * j + k) false = (byteAt ds j).getLsbD k) ∧
  (∀ bs : List Bool, (unpack (pack bs)).take bs.length = bs)

/-- DECODE_REQ and DECODE_RSP run in every state: a decoded message is written to the RX registers, all together, with ACC as its frame, and
reported; an error is reported and writes nothing else (42_codec.md R167 to R169, 60_exceptions.md R275). -/
def Obligations.DecodeCommandsCommitOrReport : Prop :=
  ∀ (s : State) (v : Bool),
    (∀ (i : Instr) (role : Role), (i = .decodeReq v ∧ role = .request) ∨ (i = .decodeRsp v ∧ role = .response) →
      (∀ m, decodeFrame s.acc.bytes v role = .ok m → exec i s = .next { s with
        rx := { kind := some m.kind, sid := m.sid, fc := m.fc, addr := m.addr, count := m.count, err := m.err, cells := m.values,
                idx := 0#16, start := wordOfLength 0, len := wordOfLength s.acc.bytes.length }
        status := s.status.finished (if m.kind = .exception then .exceptionReceived else .ok) }) ∧
      (decodeFrame s.acc.bytes v role = .error .invalidCrc →
        exec i s = .next { s with status := s.status.finished .invalidCrc }) ∧
      (decodeFrame s.acc.bytes v role = .error .malformed →
        exec i s = .next { s with status := s.status.finished .malformed }) ∧
      (decodeFrame s.acc.bytes v role = .error .unknownFunction →
        exec i s = .next { s with status := s.status.finished .unknownFunction })) ∧
    (∀ m, decodeFrame s.acc.bytes v .request = .ok m → m.kind = .request)

/-- EXC_TEST runs in every state and sets PRED to "at least 3 bytes, bit 7 of byte 1 set" of ACC, or of ACC less its last two bytes; the CRC is not
checked and nothing else but STATUS changes (42_codec.md R170, 30_encoding.md R102). -/
def Obligations.ExceptionTestSetsPred : Prop :=
  ∀ (s : State) (v : Bool) (n : Nat), (n = if v then s.acc.bytes.length - 2 else s.acc.bytes.length) →
    exec (.excTest v) s = .next { s with
      status := { (s.status.finished .ok) with pred := decide (3 ≤ n) && (byteAt s.acc.bytes 1).getLsbD 7 } }

/-- 60_exceptions.md R273: the order of the checks of one decode. -/
def Obligations.DecodeErrorsFollowThePriority : Prop :=
  ∀ (buf : List Byte) (role : Role),
    (buf.length < 2 → decodeFrame buf true role = .error .malformed) ∧
    (2 ≤ buf.length → crc16 (buf.take (buf.length - 2)) ≠ rdLe16 buf (buf.length - 2) →
      decodeFrame buf true role = .error .invalidCrc) ∧
    (2 ≤ buf.length → crc16 (buf.take (buf.length - 2)) = rdLe16 buf (buf.length - 2) →
      decodeFrame buf true role = decodeBody (buf.take (buf.length - 2)) role) ∧
    decodeFrame buf false role = decodeBody buf role ∧
    (buf.length < 2 → decodeBody buf role = .error .malformed) ∧
    (3 ≤ buf.length → (byteAt buf 1).getLsbD 7 = true → role = .response →
      (∃ m, decodeBody buf role = .ok m ∧ m.kind = .exception) ∨ decodeBody buf role = .error .malformed) ∧
    (2 ≤ buf.length → ¬ (3 ≤ buf.length ∧ (byteAt buf 1).getLsbD 7 = true ∧ role = .response) →
      byteAt buf 1 ∉ [0x01#8, 0x02#8, 0x03#8, 0x04#8, 0x05#8, 0x06#8, 0x08#8, 0x0F#8, 0x10#8] →
      decodeBody buf role = .error .unknownFunction) ∧
    (2 ≤ buf.length → byteAt buf 1 ∈ [0x01#8, 0x02#8, 0x03#8, 0x04#8, 0x05#8, 0x06#8, 0x08#8, 0x0F#8, 0x10#8] →
      (∃ m, decodeBody buf role = .ok m ∧ m.kind ≠ .exception) ∨ decodeBody buf role = .error .malformed)

/-- 42_codec.md R160 to R165: of each recognised code, exactly the bodies whose length, byte count and values fit decode, to the message with
these fields, and every other body is MALFORMED (30_encoding.md R99, R103). Words are read big-endian, in order. -/
def Obligations.RecognisedBodiesDecodeExactlyWhereTheirFieldsFit : Prop :=
  ∀ (b : List Byte) (role : Role),
    let kind : MsgKind := match role with
      | .request => .request
      | .response => .response
    let word : Nat → Half := fun i => byteAt b i ++ byteAt b (i + 1)
    let words : Nat → Nat → List Half := fun start n => (List.range n).map fun i => word (start + 2 * i)
    (byteAt b 1 ∈ [0x01#8, 0x02#8, 0x03#8, 0x04#8] → decodeBody b .request =
      if b.length = 6 then
        .ok { kind := .request, sid := byteAt b 0, fc := byteAt b 1, addr := word 2, count := word 4, values := [], err := 0#8 }
      else .error .malformed) ∧
    (byteAt b 1 ∈ [0x01#8, 0x02#8] → decodeBody b .response =
      if b.length = 3 + (byteAt b 2).toNat then
        .ok { kind := .response, sid := byteAt b 0, fc := byteAt b 1, addr := 0#16, count := BitVec.ofNat 16 (8 * (byteAt b 2).toNat),
              values := (unpack (b.drop 3)).map .bit, err := 0#8 }
      else .error .malformed) ∧
    (byteAt b 1 ∈ [0x03#8, 0x04#8] → decodeBody b .response =
      if b.length = 3 + (byteAt b 2).toNat ∧ (byteAt b 2).toNat % 2 = 0 then
        .ok { kind := .response, sid := byteAt b 0, fc := byteAt b 1, addr := 0#16, count := BitVec.ofNat 16 ((byteAt b 2).toNat / 2),
              values := (words 3 ((byteAt b 2).toNat / 2)).map .word, err := 0#8 }
      else .error .malformed) ∧
    (byteAt b 1 = 0x05#8 → decodeBody b role =
      if b.length = 6 ∧ (byteAt b 4 = 0xFF#8 ∨ byteAt b 4 = 0x00#8) ∧ byteAt b 5 = 0x00#8 then
        .ok { kind := kind, sid := byteAt b 0, fc := 0x05#8, addr := word 2, count := 1#16,
              values := [.bit (decide (byteAt b 4 = 0xFF#8))], err := 0#8 }
      else .error .malformed) ∧
    (byteAt b 1 = 0x06#8 → decodeBody b role =
      if b.length = 6 then
        .ok { kind := kind, sid := byteAt b 0, fc := 0x06#8, addr := word 2, count := 1#16, values := [.word (word 4)], err := 0#8 }
      else .error .malformed) ∧
    (byteAt b 1 = 0x0F#8 → decodeBody b .request =
      if 7 ≤ b.length ∧ (byteAt b 6).toNat = ((word 4).toNat + 7) / 8 ∧ b.length = 7 + (byteAt b 6).toNat then
        .ok { kind := .request, sid := byteAt b 0, fc := 0x0F#8, addr := word 2, count := word 4,
              values := ((unpack (b.drop 7)).take (word 4).toNat).map .bit, err := 0#8 }
      else .error .malformed) ∧
    (byteAt b 1 = 0x10#8 → decodeBody b .request =
      if 7 ≤ b.length ∧ (byteAt b 6).toNat = 2 * (word 4).toNat ∧ b.length = 7 + (byteAt b 6).toNat then
        .ok { kind := .request, sid := byteAt b 0, fc := 0x10#8, addr := word 2, count := word 4,
              values := (words 7 (word 4).toNat).map .word, err := 0#8 }
      else .error .malformed) ∧
    (byteAt b 1 ∈ [0x0F#8, 0x10#8] → decodeBody b .response =
      if b.length = 6 then
        .ok { kind := .response, sid := byteAt b 0, fc := byteAt b 1, addr := word 2, count := word 4, values := [], err := 0#8 }
      else .error .malformed) ∧
    (byteAt b 1 = 0x08#8 → decodeBody b role =
      if 4 ≤ b.length ∧ (b.length - 4) % 2 = 0 ∧ (b.length - 4) / 2 ≤ 65535 then
        .ok { kind := kind, sid := byteAt b 0, fc := 0x08#8, addr := word 2, count := BitVec.ofNat 16 ((b.length - 4) / 2),
              values := (words 4 ((b.length - 4) / 2)).map .raw, err := 0#8 }
      else .error .malformed)

/-- 42_codec.md R157 and R159: in the response role a body with bit 7 of its code set is an exception when it is 3 bytes with a known error code, the
function code stored without its high bit, and MALFORMED otherwise; in the request role no exception is decoded. -/
def Obligations.ExceptionRepliesAreRecognisedFirst : Prop :=
  (∀ sid fc err : Byte, fc.getLsbD 7 = true →
    (err ∈ [0x01#8, 0x02#8, 0x03#8, 0x04#8, 0x05#8, 0x06#8, 0x08#8, 0x0A#8, 0x0B#8] →
      decodeBody [sid, fc, err] .response =
        .ok { kind := .exception, sid := sid, fc := fc &&& 0x7F#8, addr := 0#16, count := 0#16, values := [], err := err }) ∧
    (err ∉ [0x01#8, 0x02#8, 0x03#8, 0x04#8, 0x05#8, 0x06#8, 0x08#8, 0x0A#8, 0x0B#8] →
      decodeBody [sid, fc, err] .response = .error .malformed)) ∧
  (∀ b : List Byte, b.length ≠ 3 → decodeExcBody b = .error .malformed) ∧
  (∀ b : List Byte, 3 ≤ b.length → (byteAt b 1).getLsbD 7 = true → decodeBody b .response = decodeExcBody b) ∧
  (∀ (b : List Byte) (m : Msg), decodeBody b .request = .ok m → m.kind = .request)

/-- The round trip of a request (42_codec.md R171), for a TX message whose count is its number of cells (10_state.md R43). The clause "otherwise
`Err(MALFORMED)`" of a WMULTI request is stated of data longer than 255 bytes (log 9). -/
def Obligations.RequestsDecodeToTheirMessage : Prop :=
  ∀ m : TxRecord, m.values.length < 65536 → m.count = BitVec.ofNat 16 m.values.length →
    (m.fc ∈ [0x01#8, 0x02#8, 0x03#8, 0x04#8] → decodeBody (encodeReqBody m) .request =
      .ok { kind := .request, sid := m.sid, fc := m.fc, addr := m.addr, count := m.count, values := [], err := 0#8 }) ∧
    (m.fc ∈ [0x05#8, 0x06#8] → ∃ m', decodeBody (encodeReqBody m) .request = .ok m') ∧
    (∀ b, m.fc = 0x05#8 → m.values = [.bit b] → decodeBody (encodeReqBody m) .request =
      .ok { kind := .request, sid := m.sid, fc := m.fc, addr := m.addr, count := 1#16, values := [.bit b], err := 0#8 }) ∧
    (∀ w, m.fc = 0x06#8 → m.values = [.word w] → decodeBody (encodeReqBody m) .request =
      .ok { kind := .request, sid := m.sid, fc := m.fc, addr := m.addr, count := 1#16, values := [.word w], err := 0#8 }) ∧
    (∀ bs : List Bool, m.fc = 0x0F#8 → m.values = bs.map .bit → bs.length ≤ 2040 → decodeBody (encodeReqBody m) .request =
      .ok { kind := .request, sid := m.sid, fc := m.fc, addr := m.addr, count := m.count, values := m.values, err := 0#8 }) ∧
    (∀ ws : List Half, m.fc = 0x10#8 → m.values = ws.map .word → ws.length ≤ 127 → decodeBody (encodeReqBody m) .request =
      .ok { kind := .request, sid := m.sid, fc := m.fc, addr := m.addr, count := m.count, values := m.values, err := 0#8 }) ∧
    ((m.fc = 0x0F#8 ∧ 2040 < m.values.length) ∨ (m.fc = 0x10#8 ∧ 127 < m.values.length) →
      decodeBody (encodeReqBody m) .request = .error .malformed) ∧
    (∀ rs : List Half, m.fc = 0x08#8 → m.values = rs.map .raw → decodeBody (encodeReqBody m) .request =
      .ok { kind := .request, sid := m.sid, fc := m.fc, addr := m.addr, count := m.count, values := m.values, err := 0#8 })

/-- The round trip of a response (42_codec.md R172, its clauses on responses), for a TX message whose count is its number of cells. -/
def Obligations.ResponsesDecodeToTheirMessage : Prop :=
  ∀ m : TxRecord, m.values.length < 65536 → m.count = BitVec.ofNat 16 m.values.length →
    (∀ bs : List Bool, m.fc ∈ [0x01#8, 0x02#8] → m.values = bs.map .bit → bs.length % 8 = 0 → bs.length ≤ 2040 → m.addr = 0#16 →
      decodeBody (encodeRspBody m) .response =
        .ok { kind := .response, sid := m.sid, fc := m.fc, addr := m.addr, count := m.count, values := m.values, err := 0#8 }) ∧
    (∀ ws : List Half, m.fc ∈ [0x03#8, 0x04#8] → m.values = ws.map .word → ws.length ≤ 127 → m.addr = 0#16 →
      decodeBody (encodeRspBody m) .response =
        .ok { kind := .response, sid := m.sid, fc := m.fc, addr := m.addr, count := m.count, values := m.values, err := 0#8 }) ∧
    (∀ v, ((m.fc = 0x05#8 ∧ ∃ b, v = .bit b) ∨ (m.fc = 0x06#8 ∧ ∃ w, v = .word w)) → m.values = [v] →
      decodeBody (encodeRspBody m) .response =
        .ok { kind := .response, sid := m.sid, fc := m.fc, addr := m.addr, count := 1#16, values := [v], err := 0#8 }) ∧
    (m.fc ∈ [0x0F#8, 0x10#8] → decodeBody (encodeRspBody m) .response =
      .ok { kind := .response, sid := m.sid, fc := m.fc, addr := m.addr, count := m.count, values := [], err := 0#8 }) ∧
    (∀ rs : List Half, m.fc = 0x08#8 → m.values = rs.map .raw → decodeBody (encodeRspBody m) .response =
      .ok { kind := .response, sid := m.sid, fc := m.fc, addr := m.addr, count := m.count, values := m.values, err := 0#8 }) ∧
    (m.err ∈ [0x01#8, 0x02#8, 0x03#8, 0x04#8, 0x05#8, 0x06#8, 0x08#8, 0x0A#8, 0x0B#8] →
      decodeBody (encodeExcBody m) .response =
        .ok { kind := .exception, sid := m.sid, fc := m.fc &&& 0x7F#8, addr := 0#16, count := 0#16, values := [], err := m.err })

/-- "for RTU, `decodeFrame(rtuFrame(x), true, role) = decodeBody(x, role)` for every body `x`" (42_codec.md R172). -/
def Obligations.RtuFramesDecodeToTheirBody : Prop :=
  ∀ (x : List Byte) (role : Role), decodeFrame (rtuFrame x) true role = decodeBody x role

/-- The encoded sizes of 30_encoding.md R104: no body is longer than 131077 bytes, and no frame built of one than 131083. (What the host or a second
framing puts into TXBUF may be longer; log 15.) -/
def Obligations.EncodedSizesAreBounded : Prop :=
  ∀ (m : TxRecord) (tid : Half), m.values.length ≤ 65535 →
    ∀ body ∈ [encodeReqBody m, encodeRspBody m, encodeExcBody m],
      body.length ≤ 131077 ∧ (rtuFrame body).length ≤ 131079 ∧ (mbapFrame tid body).length ≤ 131083

/-! ## Framing -/

/-- RTU_FRAME and MBAP_FRAME run in every state and extend TXBUF by the CRC trailer, low byte first, or by the MBAP header; the CRC register, the
transaction IDs and everything else but STATUS stay (43_framing.md R191, R194). -/
def Obligations.FrameCommandsExtendTheTransmitBuffer : Prop :=
  ∀ s : State,
    exec .rtuFrame s = .next { s with
      txb := { s.txb with bytes :=
        s.txb.bytes ++ [(crc16 s.txb.bytes).extractLsb' 0 8, (crc16 s.txb.bytes).extractLsb' 8 8] }
      status := s.status.finished .ok } ∧
    ∀ tid : Half, exec (.mbapFrame tid) s = .next { s with
      txb := { s.txb with bytes :=
        [tid.extractLsb' 8 8, tid.extractLsb' 0 8, 0x00#8, 0x00#8, BitVec.ofNat 8 (s.txb.bytes.length / 256),
          BitVec.ofNat 8 s.txb.bytes.length] ++ s.txb.bytes }
      status := s.status.finished .ok }

/-- MBAP_DEFRAME_REQ and MBAP_DEFRAME_RSP run in every state (43_framing.md R195 to R197): fewer than 6 bytes, MALFORMED and nothing else; else TID_RX,
and the payload of exactly the declared length decoded without a CRC, committed with RX_LEN `6 + L` or reported; a length below 2 or
beyond the bytes present is MALFORMED. -/
def Obligations.MbapDeframeCommandsCommitOrReport : Prop :=
  ∀ (s : State) (i : Instr) (role : Role),
    (i = .mbapDeframeReq ∧ role = .request) ∨ (i = .mbapDeframeRsp ∧ role = .response) →
    (s.acc.bytes.length < 6 → exec i s = .next { s with status := s.status.finished .malformed }) ∧
    (6 ≤ s.acc.bytes.length →
      let len := (rdBe16 s.acc.bytes 4).toNat
      (len < 2 ∨ s.acc.bytes.length < 6 + len →
        exec i s = .next { s with tidRx := rdBe16 s.acc.bytes 0, status := s.status.finished .malformed }) ∧
      (2 ≤ len → 6 + len ≤ s.acc.bytes.length →
        (∀ m, decodeBody ((s.acc.bytes.drop 6).take len) role = .ok m → exec i s = .next { s with
          tidRx := rdBe16 s.acc.bytes 0
          rx := { kind := some m.kind, sid := m.sid, fc := m.fc, addr := m.addr, count := m.count, err := m.err, cells := m.values,
                  idx := 0#16, start := 0#32, len := BitVec.ofNat 32 (6 + len) }
          status := s.status.finished (if m.kind = .exception then .exceptionReceived else .ok) }) ∧
        (∀ e, decodeBody ((s.acc.bytes.drop 6).take len) role = .error e → exec i s = .next { s with
          tidRx := rdBe16 s.acc.bytes 0
          status := s.status.finished e.result })))

/-- 43_framing.md R198: an MBAP frame of a body of 2 to 65535 bytes parses back to its transaction ID, the decode of the body, and its length. -/
def Obligations.MbapFramesParseBack : Prop :=
  ∀ (x : List Byte) (t : Half) (role : Role), 2 ≤ x.length → x.length ≤ 65535 →
    mbapParse (mbapFrame t x) role = .header t (decodeBody x role) (6 + x.length)

/-! ## The connection -/

/-- OPEN_RTU and OPEN_TCP (44_connection.md R210): on a closed connection they open it with their transport and start a lifetime (FSM Idle, TID_NEXT from
TID_INIT, `close_issued` 0) without touching the channel, TID_OUT, TID_RX or anything else; on an open one they report ILLEGAL_COMMAND
and change nothing else. -/
def Obligations.OpenStartsALifetime : Prop :=
  ∀ (s : State) (i : Instr) (tr : Transport), (i = .openRtu ∧ tr = .rtu) ∨ (i = .openTcp ∧ tr = .tcp) →
    (s.status.isOpen = false → exec i s = .next { s with
      status := { (s.status.finished .ok) with isOpen := true, transport := tr, fsm := .idle }
      closeIssued := false
      tidNext := s.params.tidInit }) ∧
    (s.status.isOpen = true → exec i s = .next { s with status := s.status.finished .illegalCommand })

/-- CLOSE (44_connection.md R211), in every state: OPEN 0; an exchange in progress aborted with FSM Failed and CONNECTION_CLOSED, else FSM Idle and OK; the
channel told to close only if it has not been since the last OPEN; ACC, the RX registers and everything else as they were. -/
def Obligations.CloseEndsALifetime : Prop :=
  ∀ s : State,
    exec .close s = .next { s with
      status := { (s.status.finished (if s.status.busy then .connectionClosed else .ok)) with
        isOpen := false
        fsm := if s.status.busy then .failed else .idle }
      closeIssued := true
      env := { s.env with chanLog := if s.closeIssued then s.env.chanLog else s.env.chanLog ++ [.close] } }

/-- "closed exactly once (idempotent close)" (10_state.md R48, 44_connection.md R211): a step tells the channel to close only by a CLOSE that finds
`close_issued` 0, which it then sets; and only an OPEN clears it again (reset sets it). -/
def Obligations.ChannelIsToldToCloseOncePerLifetime : Prop :=
  ∀ s t : State, step s = .next t →
    (closeCount t.env.chanLog = closeCount s.env.chanLog + 1 ∧ s.presents .close ∧ s.closeIssued = false ∧ t.closeIssued = true) ∨
    (closeCount t.env.chanLog = closeCount s.env.chanLog ∧
      (t.closeIssued = s.closeIssued ∨ (s.resetNext ∧ t.closeIssued = true) ∨
       ((s.presents .openRtu ∨ s.presents .openTcp) ∧ s.status.isOpen = false ∧ t.closeIssued = false)))

/-- SEND_REQUEST, SEND_RESPONSE and SEND_EXCEPTION (44_connection.md R213 to R217): on an open connection the framed body replaces TXBUF and is written to
the channel in one request, whose answer is reported; the transaction ID is TID_NEXT, which becomes TID_OUT and advances even when the
write fails, for a request over TCP, and TID_RX for a reply; RTU carries none and touches none. On a closed connection they report
CONNECTION_CLOSED and make no channel request. The list of answers and the draw counter are the model's own fields of log 2, the channel
log that of log 7. -/
def Obligations.SendCommandsWriteOneFrame : Prop :=
  ∀ s : State,
    let m : TxRecord := ⟨s.txm.sid, s.txm.fc, s.txm.addr, s.txmCount, s.txm.cells, s.txm.err⟩
    let report : ResultCode := match writeAnswer s, s.status.transport with
      | .ok, _ => .ok
      | .err, .rtu => .slaveDeviceFailure
      | .err, .tcp => .protocolError
    let sent : List Byte → State := fun f => { s with
      txb := { s.txb with bytes := f }
      status := s.status.finished report
      env := { s.env with
        writeAnswers := s.env.writeAnswers.tail
        draws := if s.env.writeAnswers = [] then s.env.draws + 1 else s.env.draws
        chanLog := s.env.chanLog ++ [.write f (writeAnswer s)] } }
    (s.status.isOpen = true → s.status.transport = .rtu →
      exec .sendRequest s = .next (sent (rtuFrame (encodeReqBody m))) ∧
      exec .sendResponse s = .next (sent (rtuFrame (encodeRspBody m))) ∧
      exec .sendException s = .next (sent (rtuFrame (encodeExcBody m)))) ∧
    (s.status.isOpen = true → s.status.transport = .tcp →
      exec .sendRequest s =
        .next { sent (mbapFrame s.tidNext (encodeReqBody m)) with tidOut := s.tidNext, tidNext := s.tidNext + 1#16 } ∧
      exec .sendResponse s = .next (sent (mbapFrame s.tidRx (encodeRspBody m))) ∧
      exec .sendException s = .next (sent (mbapFrame s.tidRx (encodeExcBody m)))) ∧
    (s.status.isOpen = false → ∀ i ∈ [Instr.sendRequest, .sendResponse, .sendException],
      exec i s = .next { s with status := s.status.finished .connectionClosed })

/-- 44_connection.md R237: after OPEN_TCP the requests take the IDs TID_INIT, TID_INIT + 1, ... modulo 2^16, one each, and TID_OUT names the last. -/
def Obligations.TransactionIdsCountUp : Prop :=
  ∀ (s : State) (n : Nat), s.status.isOpen = false → ∃ t,
    execAll (.openTcp :: List.replicate n .sendRequest) s = .next t ∧
    t.tidNext = s.params.tidInit + BitVec.ofNat 16 n ∧
    (n = 0 → t.tidOut = s.tidOut) ∧ (0 < n → t.tidOut = s.params.tidInit + BitVec.ofNat 16 (n - 1))

/-- AWAIT_RESPONSE and AWAIT_REQUEST (44_connection.md R218, R219): on an open connection they start an exchange: ACC emptied with its index, READS and
LASTERR cleared, the role set, FSM AwaitingFrame, BUSY 1, DONE 0, RESULT and everything else as they were, and no channel request
yet; on a closed one they report CONNECTION_CLOSED. -/
def Obligations.AwaitStartsAnExchange : Prop :=
  ∀ (s : State) (i : Instr) (role : Role), (i = .awaitResponse ∧ role = .response) ∨ (i = .awaitRequest ∧ role = .request) →
    (s.status.isOpen = true → exec i s = .next { s with
      acc := { bytes := [], idx := 0#32 }
      reads := 0#32
      status := { s.status with lastErr := none, role := role, fsm := .awaitingFrame, busy := true, done := false } }) ∧
    (s.status.isOpen = false → exec i s = .next { s with status := s.status.finished .connectionClosed })

/-! ## The read loop -/

/-- 44_connection.md R221: the block engine takes its read step, alone or in its turn, exactly when BUSY is 1 and FSM is AwaitingFrame or Retrying; without
one its turn changes nothing (log 13). -/
def Obligations.EngineStepsExactlyWhileWaiting : Prop :=
  ∀ s : State,
    (s.status.busy = true → s.status.fsm = .awaitingFrame ∨ s.status.fsm = .retrying →
      (s.env.script = [] → step s = readStep s) ∧
      (∀ rest, s.env.script = .engine :: rest → step s = readStep { s with env := { s.env with script := rest } })) ∧
    (¬ (s.status.busy = true ∧ (s.status.fsm = .awaitingFrame ∨ s.status.fsm = .retrying)) →
      (s.env.script = [] → step s = .next s) ∧
      (∀ rest, s.env.script = .engine :: rest → step s = .next { s with env := { s.env with script := rest } }))

/-- 44_connection.md R223 to R225: a read answered `Closed`, `TimedOut` or `IoError` ends the exchange with its code and FSM Failed, with ACC, READS, the RX
registers and OPEN as they were. The step makes one request, of READ_CHUNK = 1024 bytes with READ_TIMEOUT (R222), and uses up its
answer; the list of answers and the draw counter are the model's own fields of log 2, the channel log that of log 7. -/
def Obligations.ChannelFailuresEndTheExchange : Prop :=
  ∀ s : State,
    let ended : ResultCode → State := fun code => { s with
      status := { (s.status.finished code) with fsm := .failed }
      env := { s.env with
        readAnswers := s.env.readAnswers.tail
        draws := if s.env.readAnswers = [] then s.env.draws + 1 else s.env.draws
        chanLog := s.env.chanLog ++ [.read 1024 s.params.readTimeout (readAnswer s)] } }
    (readAnswer s = .closed → readStep s = .next (ended .connectionClosed)) ∧
    (readAnswer s = .timedOut → readStep s = .next (ended .timeout)) ∧
    (readAnswer s = .ioError → s.status.transport = .rtu → readStep s = .next (ended .slaveDeviceFailure)) ∧
    (readAnswer s = .ioError → s.status.transport = .tcp → readStep s = .next (ended .protocolError))

/-- The RTU read step (44_connection.md R226 to R228, R231, R233): the bytes are appended, and the first suffix of ACC whose CRC checks and whose body decodes is
accepted with its start and length, whatever comes before it; with none the exchange goes on, LASTERR taking the error of the whole
ACC. The one read request (R222) is written out in `State.afterData`, with the model's own fields of logs 2 and 7. -/
def Obligations.RtuReadAcceptsTheFirstSuffixThatDecodes : Prop :=
  ∀ (s : State) (bs : List Byte), readAnswer s = .data bs → (readAnswer s).wf = true → s.status.transport = .rtu →
    let u := s.afterData bs
    (∀ (k : Nat) (m : Msg), k < u.acc.bytes.length → decodeFrame (u.acc.bytes.drop k) true s.status.role = .ok m →
      (∀ j < k, ∀ m', decodeFrame (u.acc.bytes.drop j) true s.status.role ≠ .ok m') →
      readStep s = .next (u.withFrame m k (u.acc.bytes.length - k))) ∧
    (∀ e : DecodeErr, (∀ k < u.acc.bytes.length, ∀ m, decodeFrame (u.acc.bytes.drop k) true s.status.role ≠ .ok m) →
      decodeFrame u.acc.bytes true s.status.role = .error e → readStep s = .next (u.withoutFrame e))

/-- The TCP read step of a complete header (44_connection.md R229, 60_exceptions.md R267): in the response role a transaction ID other than TID_OUT ends the
exchange with INVALID_MESSAGE_ID, whatever the length and the body; TID_RX takes the ID. (The request in `State.afterData`: R222, logs 2
and 7.) -/
def Obligations.WrongTransactionIdEndsTheExchange : Prop :=
  ∀ (s : State) (bs : List Byte), readAnswer s = .data bs → (readAnswer s).wf = true → s.status.transport = .tcp →
    s.status.role = .response → 6 ≤ (s.afterData bs).acc.bytes.length →
    rdBe16 (s.afterData bs).acc.bytes 0 ≠ s.tidOut →
    readStep s =
      .next (State.withFailure { s.afterData bs with tidRx := rdBe16 (s.afterData bs).acc.bytes 0 } .invalidMessageId)

/-- The TCP read step otherwise (44_connection.md R229 to R231, R233): an incomplete header, a length below 2 or beyond the bytes present, and a body that does not
decode go on; a body that decodes is accepted from offset 0 with length `6 + L`. (The request in `State.afterData`: R222, logs 2 and 7.) -/
def Obligations.TcpReadAcceptsTheDeclaredBody : Prop :=
  ∀ (s : State) (bs : List Byte), readAnswer s = .data bs → (readAnswer s).wf = true → s.status.transport = .tcp →
    let u := s.afterData bs
    let len := (rdBe16 u.acc.bytes 4).toNat
    let v : State := { u with tidRx := rdBe16 u.acc.bytes 0 }
    (u.acc.bytes.length < 6 → readStep s = .next (u.withoutFrame .malformed)) ∧
    (6 ≤ u.acc.bytes.length → s.status.role = .request ∨ rdBe16 u.acc.bytes 0 = s.tidOut →
      (len < 2 ∨ u.acc.bytes.length < 6 + len → readStep s = .next (v.withoutFrame .malformed)) ∧
      (2 ≤ len → 6 + len ≤ u.acc.bytes.length →
        (∀ m, decodeBody ((u.acc.bytes.drop 6).take len) s.status.role = .ok m → readStep s = .next (v.withFrame m 0 (6 + len))) ∧
        (∀ e, decodeBody ((u.acc.bytes.drop 6).take len) s.status.role = .error e → readStep s = .next (v.withoutFrame e))))

/-- The transitions of the connection state machine, all of them (44_connection.md R220), from a state that meets the invariant: FSM changes only by reset or by OPEN
and CLOSE without an exchange (to Idle), by AWAIT_* on an open connection without an exchange (to AwaitingFrame), and during an exchange
by a frame (to Decoded), a first failed attempt (to Retrying), or a fatal code (to Failed). -/
def Obligations.FsmFollowsItsTransitions : Prop :=
  ∀ s t : State, BlockInv s → step s = .next t → t.status.fsm ≠ s.status.fsm →
    (s.resetNext ∧ t.status.fsm = .idle) ∨
    (s.status.busy = false ∧ t.status.fsm = .idle ∧
      (s.presents .close ∨ (s.status.isOpen = false ∧ (s.presents .openRtu ∨ s.presents .openTcp)))) ∨
    (s.status.busy = false ∧ s.status.isOpen = true ∧ t.status.fsm = .awaitingFrame ∧
      (s.presents .awaitResponse ∨ s.presents .awaitRequest)) ∨
    (s.status.busy = true ∧ t.status.fsm = .decoded ∧ t.status.result ∈ [ResultCode.ok, .exceptionReceived]) ∨
    (s.status.busy = true ∧ s.status.fsm = .awaitingFrame ∧ t.status.fsm = .retrying ∧ t.status.lastErr ≠ none) ∨
    (s.status.busy = true ∧ t.status.fsm = .failed ∧ t.status.result ∈
      [ResultCode.connectionClosed, .timeout, .slaveDeviceFailure, .protocolError, .invalidMessageId])

/-- With an integer READ_LIMIT that the 32-bit counter READS can reach, an exchange left alone with any channel ends within that many reads (44_connection.md
R234, R239): from every state that meets the invariant, waiting, with no turn listed (log 1) and every listed answer in its shape (log 2).
(A larger limit is never reached; log 16.) -/
def Obligations.ExchangesEndAtTheReadLimit : Prop :=
  ∀ (s : State) (n : Nat), BlockInv s → s.status.busy = true → s.params.readLimit = some n → n < 2 ^ 32 → s.env.script = [] →
    s.env.readAnswers.all (·.wf) = true →
    ∃ (k : Nat) (t : State), s.reads.toNat + k ≤ n ∧ Host.Core.run Sys2Proof.core k s = .next t ∧
      t.status.busy = false ∧ t.status.done = true

/-! ## The whole machine -/

/-- 10_state.md R45, R47: the RX registers (RXV_IDX apart, which the host writes) change only by reset or all together by a successful
decode of bytes of ACC, which reports OK or EXCEPTION_RECEIVED: of all of ACC by DECODE_REQ and DECODE_RSP (42_codec.md R168, R169); of the
L bytes that a complete MBAP header at its start declares by MBAP_DEFRAME_* (43_framing.md R195) and, in an exchange on TCP, by the read
step (44_connection.md R229, R230); of the suffix from RX_START on, in an exchange on RTU (R228). -/
def Obligations.RxRegistersAreWrittenTogetherByADecode : Prop :=
  ∀ s t : State, step s = .next t →
    t.rx = { s.rx with idx := t.rx.idx } ∨
    (s.resetNext ∧ t.rx = RxMsg.reset) ∨
    (∃ (m : Msg) (start len : Nat), t.rx =
        { kind := some m.kind, sid := m.sid, fc := m.fc, addr := m.addr, count := m.count, err := m.err, cells := m.values,
          idx := 0#16, start := wordOfLength start, len := wordOfLength len } ∧
      t.status.result = (if m.kind = .exception then .exceptionReceived else .ok) ∧ t.status.done = true ∧
      let mbap : Role → Prop := fun role =>
        start = 0 ∧ len = 6 + (rdBe16 t.acc.bytes 4).toNat ∧ 8 ≤ len ∧ len ≤ t.acc.bytes.length ∧
          decodeBody ((t.acc.bytes.take len).drop 6) role = .ok m
      ((∃ v, (s.presents (.decodeReq v) ∧ decodeFrame t.acc.bytes v .request = .ok m) ∨
          (s.presents (.decodeRsp v) ∧ decodeFrame t.acc.bytes v .response = .ok m)) ∧
        start = 0 ∧ len = t.acc.bytes.length) ∨
      (s.presents .mbapDeframeReq ∧ mbap .request) ∨
      (s.presents .mbapDeframeRsp ∧ mbap .response) ∨
      (s.status.busy = true ∧ s.status.transport = .tcp ∧ mbap s.status.role) ∨
      (s.status.busy = true ∧ s.status.transport = .rtu ∧ len ≠ 0 ∧ start + len = t.acc.bytes.length ∧
        decodeFrame (t.acc.bytes.drop start) true s.status.role = .ok m))

/-- Which commands write CRC, CLASS, TRANSPORT, OPEN, PRED, ROLE and TXM_COUNT (10_state.md R26 to R29, R34, R35, R43): reset apart, CRC
changes only by the four CRC commands, CLASS by CLASSIFY, TRANSPORT by OPEN_*, OPEN by OPEN_* and CLOSE, PRED by EXC_TEST, ROLE by
AWAIT_*, and TXM_COUNT by SET_COUNT. (The transaction IDs, READS and LASTERR: the next statement.) -/
def Obligations.OnlyTheirCommandsWriteTheRegisters : Prop :=
  ∀ s t : State, step s = .next t → ¬ s.resetNext →
    (t.crc ≠ s.crc →
      s.presents .crcInit ∨ (∃ b, s.presents (.crcUpdate b)) ∨ s.presents .crcSpanTx ∨ s.presents .crcSpanAcc) ∧
    (t.cls ≠ s.cls → ∃ c, s.presents (.classify c)) ∧
    (t.status.transport ≠ s.status.transport → s.presents .openRtu ∨ s.presents .openTcp) ∧
    (t.status.isOpen ≠ s.status.isOpen → s.presents .openRtu ∨ s.presents .openTcp ∨ s.presents .close) ∧
    (t.status.pred ≠ s.status.pred → ∃ v, s.presents (.excTest v)) ∧
    (t.status.role ≠ s.status.role → s.presents .awaitResponse ∨ s.presents .awaitRequest) ∧
    (t.txm.cells.length ≠ s.txm.cells.length → ∃ n, s.presents (.setCount n))

/-- Which steps write the transaction IDs, READS and LASTERR, and with what (10_state.md R32, R36 to R39): reset apart, TID_OUT changes only by
SEND_REQUEST over TCP (70_reset_and_hazards.md R298), to TID_NEXT; TID_NEXT by OPEN_* (to TID_INIT), by SEND_REQUEST over TCP (by 1) and
by a host write of it; TID_RX by MBAP_DEFRAME_* and the TCP read loop, to the ID of the header in ACC; READS and LASTERR by AWAIT_*,
which clears them, and by a read step answered `Data`, which counts up and reports an error. (The turns and the answers are the model's
own fields of logs 1 and 2.) -/
def Obligations.IdsReadsAndLastErrChangeOnlyByTheirRules : Prop :=
  ∀ s t : State, step s = .next t → ¬ s.resetNext →
    (t.tidOut ≠ s.tidOut →
      s.presents .sendRequest ∧ s.status.isOpen = true ∧ s.status.transport = .tcp ∧ t.tidOut = s.tidNext) ∧
    (t.tidNext ≠ s.tidNext →
      ((s.presents .openRtu ∨ s.presents .openTcp) ∧ s.status.isOpen = false ∧ t.tidNext = s.params.tidInit) ∨
      (s.presents .sendRequest ∧ s.status.isOpen = true ∧ s.status.transport = .tcp ∧ t.tidNext = s.tidNext + 1#16) ∨
      (∃ v rest, s.env.script = .host (.write 0x10 v) :: rest ∧ s.status.busy = false ∧ t.tidNext = v.extractLsb' 0 16)) ∧
    (t.tidRx ≠ s.tidRx →
      (s.presents .mbapDeframeReq ∨ s.presents .mbapDeframeRsp ∨ (s.status.busy = true ∧ s.status.transport = .tcp)) ∧
      6 ≤ t.acc.bytes.length ∧ t.tidRx = rdBe16 t.acc.bytes 0) ∧
    (t.reads ≠ s.reads →
      ((s.presents .awaitResponse ∨ s.presents .awaitRequest) ∧ s.status.isOpen = true ∧ t.reads = 0#32) ∨
      (s.status.busy = true ∧ (∃ bs, readAnswer s = .data bs) ∧ t.reads.toNat = s.reads.toNat + 1)) ∧
    (t.status.lastErr ≠ s.status.lastErr →
      ((s.presents .awaitResponse ∨ s.presents .awaitRequest) ∧ s.status.isOpen = true ∧ t.status.lastErr = none) ∨
      (s.status.busy = true ∧ (∃ bs, readAnswer s = .data bs) ∧ ∃ e, t.status.lastErr = some e))

/-- Every command other than AWAIT_RESPONSE and AWAIT_REQUEST has finished when its write to CMD completes: BUSY 0 and DONE 1 (20_memory.md R72,
70_reset_and_hazards.md R295); AWAIT_* finishes at once too when the connection is closed. -/
def Obligations.CommandsOtherThanAwaitFinishAtOnce : Prop :=
  ∀ (i : Instr) (s : State), (i ≠ .awaitResponse ∧ i ≠ .awaitRequest) ∨ s.status.isOpen = false →
    ∃ t, exec i s = .next t ∧ t.status.busy = false ∧ t.status.done = true ∧ t.status.ovr = s.status.ovr ∧
      t.status.lastErr = s.status.lastErr
end

