-- ==== Sys2Proof/Laws/Codec.lean ====
section
/-! SUPPORT. Lengths of what the operand forms and the codec produce, and what a decoded message can be. -/

namespace Sys2Proof.Machine

@[simp] theorem be16_length (v : Half) : (be16 v).length = 2 := rfl

@[simp] theorem le16_length (v : Half) : (le16 v).length = 2 := rfl

@[simp] theorem unpackByte_length (d : Byte) : (unpackByte d).length = 8 := rfl

@[simp] theorem unpack_length (ds : List Byte) : (unpack ds).length = 8 * ds.length := by
  induction ds with
  | nil => rfl
  | cons d ds ih => simp only [unpack, List.flatMap_cons, List.length_append] at ih ⊢; simp [ih]; omega

@[simp] theorem wordsFrom_length (xs : List Byte) : (wordsFrom xs).length = xs.length / 2 := by
  induction xs using wordsFrom.induct with
  | case1 hi lo rest ih => simp [wordsFrom, ih]; omega
  | case2 => simp [wordsFrom]
  | case3 => simp [wordsFrom]

@[simp] theorem wordsOf_length (vs : List Cell) : (wordsOf vs).length = 2 * vs.length := by
  induction vs with
  | nil => rfl
  | cons v vs ih => simp only [wordsOf, List.flatMap_cons, List.length_append] at ih ⊢; simp [ih]; omega

@[simp] theorem packBytes_length (n : Nat) (bs : List Bool) : (packBytes n bs).length = n := by
  induction n generalizing bs with
  | zero => rfl
  | succ n ih => simp [packBytes, ih]

@[simp] theorem pack_length (bs : List Bool) : (pack bs).length = (bs.length + 7) / 8 := by simp [pack]

@[simp] theorem bitsOf_length (vs : List Cell) : (bitsOf vs).length = (vs.length + 7) / 8 := by simp [bitsOf]

@[simp] theorem header_length (m : TxRecord) : (header m).length = 4 := rfl

@[simp] theorem rtuFrame_length (body : List Byte) : (rtuFrame body).length = body.length + 2 := by simp [rtuFrame]

@[simp] theorem mbapFrame_length (tid : Half) (body : List Byte) : (mbapFrame tid body).length = body.length + 6 := by
  simp [mbapFrame]; omega

/-- What a decoded message looks like to the RX registers: few enough cells, an exception in its fixed shape with a known code,
and no error code otherwise (42_codec.md R159 to R165). -/
structure Msg.sound (m : Msg) : Prop where
  cells : m.values.length ≤ 65535
  exception : m.kind = .exception →
    m.addr = 0#16 ∧ m.count = 0#16 ∧ m.values = [] ∧ m.fc.getLsbD 7 = false ∧ knownErr m.err = true
  noErr : m.kind ≠ .exception → m.err = 0#8

theorem decodeExcBody_sound {b : List Byte} {m : Msg} (h : decodeExcBody b = .ok m) : m.sound := by
  unfold decodeExcBody at h
  split at h
  · cases h
  · split at h
    · cases h
    · rename_i hk
      cases h
      exact ⟨by simp, fun _ => ⟨rfl, rfl, rfl, by simp, by simpa using hk⟩, fun hne => (hne rfl).elim⟩

theorem decodeReadReq_sound {b : List Byte} {m : Msg} (h : decodeReadReq b = .ok m) : m.sound := by
  unfold decodeReadReq at h
  split at h <;> cases h
  exact ⟨by simp, fun h => (by cases h), fun _ => rfl⟩

theorem decodeReadRsp_sound {b : List Byte} {m : Msg} (h : decodeReadRsp b = .ok m) : m.sound := by
  unfold decodeReadRsp at h
  split at h
  · cases h
  split at h
  · cases h
  split at h
  · cases h
  · rename_i hl _
    cases h
    refine ⟨?_, fun h => (by cases h), fun _ => rfl⟩
    have hb : (byteAt b 2).toNat < 256 := (byteAt b 2).isLt
    simp only [readCells]
    split <;> simp <;> omega

theorem decodeSingle_sound {b : List Byte} {r : Role} {m : Msg} (h : decodeSingle b r = .ok m) : m.sound := by
  unfold decodeSingle at h
  split at h
  · cases h
  split at h
  · cases h
  · cases h
    exact ⟨by simp, fun h => (by cases r <;> cases h), fun _ => rfl⟩

theorem decodeMultiReq_sound {b : List Byte} {m : Msg} (h : decodeMultiReq b = .ok m) : m.sound := by
  unfold decodeMultiReq at h
  split at h
  · cases h
  split at h
  · cases h
  split at h
  · cases h
  · rename_i hl
    cases h
    refine ⟨?_, fun h => (by cases h), fun _ => rfl⟩
    have hq : (rdBe16 b 4).toNat < 65536 := (rdBe16 b 4).isLt
    have hb : (byteAt b 6).toNat < 256 := (byteAt b 6).isLt
    simp only [multiCells]
    split <;> simp <;> omega

theorem decodeMultiRsp_sound {b : List Byte} {m : Msg} (h : decodeMultiRsp b = .ok m) : m.sound := by
  unfold decodeMultiRsp at h
  split at h <;> cases h
  exact ⟨by simp, fun h => (by cases h), fun _ => rfl⟩

theorem decodeDiag_sound {b : List Byte} {r : Role} {m : Msg} (h : decodeDiag b r = .ok m) : m.sound := by
  unfold decodeDiag at h
  split at h
  · cases h
  split at h
  · cases h
  · cases h
    refine ⟨?_, fun h => (by cases r <;> cases h), fun _ => rfl⟩
    simp; omega

/-- Every message the codec decodes is sound. -/
theorem decodeBody_sound {b : List Byte} {r : Role} {m : Msg} (h : decodeBody b r = .ok m) : m.sound := by
  unfold decodeBody at h
  split at h
  · cases h
  split at h
  · exact decodeExcBody_sound h
  · cases hs : shape (byteAt b 1) <;> simp only [hs] at h
    · cases r
      · exact decodeReadReq_sound h
      · exact decodeReadRsp_sound h
    · exact decodeSingle_sound h
    · cases r
      · exact decodeMultiReq_sound h
      · exact decodeMultiRsp_sound h
    · exact decodeDiag_sound h
    · cases h

/-- Every message a frame decodes to is sound. -/
theorem decodeFrame_sound {b : List Byte} {v : Bool} {r : Role} {m : Msg} (h : decodeFrame b v r = .ok m) : m.sound := by
  unfold decodeFrame at h
  split at h
  · split at h
    · cases h
    split at h
    · cases h
    · exact decodeBody_sound h
  · exact decodeBody_sound h

/-- Every message the MBAP deframer decodes is sound. -/
theorem mbapParse_sound {b : List Byte} {r : Role} {tid : Half} {m : Msg} {n : Nat}
    (h : mbapParse b r = .header tid (.ok m) n) : m.sound := by
  unfold mbapParse at h
  split at h
  · cases h
  split at h
  · simp at h
  split at h
  · simp at h
  · simp only [MbapResult.header.injEq] at h
    exact decodeFrame_sound h.2.1

end Sys2Proof.Machine
end

