-- ==== Sys2Proof/Laws/State.lean ====
section
/-! SUPPORT. What each named update does to each field of State: one lemma per field, true by rfl, so that no later proof unfolds a
record update. -/

namespace Sys2Proof.Machine

variable (s : State)

@[simp] theorem finish_status (c : ResultCode) : (finish c s).status = { s.status with result := c, busy := false, done := true } := rfl
@[simp] theorem finish_cls (c : ResultCode) : (finish c s).cls = s.cls := rfl
@[simp] theorem finish_crc (c : ResultCode) : (finish c s).crc = s.crc := rfl
@[simp] theorem finish_tidNext (c : ResultCode) : (finish c s).tidNext = s.tidNext := rfl
@[simp] theorem finish_tidOut (c : ResultCode) : (finish c s).tidOut = s.tidOut := rfl
@[simp] theorem finish_tidRx (c : ResultCode) : (finish c s).tidRx = s.tidRx := rfl
@[simp] theorem finish_reads (c : ResultCode) : (finish c s).reads = s.reads := rfl
@[simp] theorem finish_txb (c : ResultCode) : (finish c s).txb = s.txb := rfl
@[simp] theorem finish_acc (c : ResultCode) : (finish c s).acc = s.acc := rfl
@[simp] theorem finish_txm (c : ResultCode) : (finish c s).txm = s.txm := rfl
@[simp] theorem finish_rx (c : ResultCode) : (finish c s).rx = s.rx := rfl
@[simp] theorem finish_closeIssued (c : ResultCode) : (finish c s).closeIssued = s.closeIssued := rfl
@[simp] theorem finish_params (c : ResultCode) : (finish c s).params = s.params := rfl
@[simp] theorem finish_env (c : ResultCode) : (finish c s).env = s.env := rfl

@[simp] theorem setFsm_status (f : Fsm) : (setFsm f s).status = { s.status with fsm := f } := rfl
@[simp] theorem setFsm_cls (f : Fsm) : (setFsm f s).cls = s.cls := rfl
@[simp] theorem setFsm_crc (f : Fsm) : (setFsm f s).crc = s.crc := rfl
@[simp] theorem setFsm_tidNext (f : Fsm) : (setFsm f s).tidNext = s.tidNext := rfl
@[simp] theorem setFsm_tidOut (f : Fsm) : (setFsm f s).tidOut = s.tidOut := rfl
@[simp] theorem setFsm_tidRx (f : Fsm) : (setFsm f s).tidRx = s.tidRx := rfl
@[simp] theorem setFsm_reads (f : Fsm) : (setFsm f s).reads = s.reads := rfl
@[simp] theorem setFsm_txb (f : Fsm) : (setFsm f s).txb = s.txb := rfl
@[simp] theorem setFsm_acc (f : Fsm) : (setFsm f s).acc = s.acc := rfl
@[simp] theorem setFsm_txm (f : Fsm) : (setFsm f s).txm = s.txm := rfl
@[simp] theorem setFsm_rx (f : Fsm) : (setFsm f s).rx = s.rx := rfl
@[simp] theorem setFsm_closeIssued (f : Fsm) : (setFsm f s).closeIssued = s.closeIssued := rfl
@[simp] theorem setFsm_params (f : Fsm) : (setFsm f s).params = s.params := rfl
@[simp] theorem setFsm_env (f : Fsm) : (setFsm f s).env = s.env := rfl

@[simp] theorem chanWrite_status (bs : List Byte) : (chanWrite bs s).status = s.status := rfl
@[simp] theorem chanWrite_cls (bs : List Byte) : (chanWrite bs s).cls = s.cls := rfl
@[simp] theorem chanWrite_crc (bs : List Byte) : (chanWrite bs s).crc = s.crc := rfl
@[simp] theorem chanWrite_tidNext (bs : List Byte) : (chanWrite bs s).tidNext = s.tidNext := rfl
@[simp] theorem chanWrite_tidOut (bs : List Byte) : (chanWrite bs s).tidOut = s.tidOut := rfl
@[simp] theorem chanWrite_tidRx (bs : List Byte) : (chanWrite bs s).tidRx = s.tidRx := rfl
@[simp] theorem chanWrite_reads (bs : List Byte) : (chanWrite bs s).reads = s.reads := rfl
@[simp] theorem chanWrite_txb (bs : List Byte) : (chanWrite bs s).txb = s.txb := rfl
@[simp] theorem chanWrite_acc (bs : List Byte) : (chanWrite bs s).acc = s.acc := rfl
@[simp] theorem chanWrite_txm (bs : List Byte) : (chanWrite bs s).txm = s.txm := rfl
@[simp] theorem chanWrite_rx (bs : List Byte) : (chanWrite bs s).rx = s.rx := rfl
@[simp] theorem chanWrite_closeIssued (bs : List Byte) : (chanWrite bs s).closeIssued = s.closeIssued := rfl
@[simp] theorem chanWrite_params (bs : List Byte) : (chanWrite bs s).params = s.params := rfl
@[simp] theorem chanWrite_env_script (bs : List Byte) : (chanWrite bs s).env.script = s.env.script := rfl
@[simp] theorem chanWrite_env_readAnswers (bs : List Byte) : (chanWrite bs s).env.readAnswers = s.env.readAnswers := rfl
@[simp] theorem chanWrite_env_hostReads (bs : List Byte) : (chanWrite bs s).env.hostReads = s.env.hostReads := rfl
@[simp] theorem chanWrite_env_writeAnswers (bs : List Byte) : (chanWrite bs s).env.writeAnswers = s.env.writeAnswers.tail := rfl
@[simp] theorem chanWrite_env_chanLog (bs : List Byte) : (chanWrite bs s).env.chanLog = s.env.chanLog ++ [.write bs (writeAnswer s)] := rfl

@[simp] theorem chanRead_status : (chanRead s).status = s.status := rfl
@[simp] theorem chanRead_cls : (chanRead s).cls = s.cls := rfl
@[simp] theorem chanRead_crc : (chanRead s).crc = s.crc := rfl
@[simp] theorem chanRead_tidNext : (chanRead s).tidNext = s.tidNext := rfl
@[simp] theorem chanRead_tidOut : (chanRead s).tidOut = s.tidOut := rfl
@[simp] theorem chanRead_tidRx : (chanRead s).tidRx = s.tidRx := rfl
@[simp] theorem chanRead_reads : (chanRead s).reads = s.reads := rfl
@[simp] theorem chanRead_txb : (chanRead s).txb = s.txb := rfl
@[simp] theorem chanRead_acc : (chanRead s).acc = s.acc := rfl
@[simp] theorem chanRead_txm : (chanRead s).txm = s.txm := rfl
@[simp] theorem chanRead_rx : (chanRead s).rx = s.rx := rfl
@[simp] theorem chanRead_closeIssued : (chanRead s).closeIssued = s.closeIssued := rfl
@[simp] theorem chanRead_params : (chanRead s).params = s.params := rfl
@[simp] theorem chanRead_env_script : (chanRead s).env.script = s.env.script := rfl
@[simp] theorem chanRead_env_writeAnswers : (chanRead s).env.writeAnswers = s.env.writeAnswers := rfl
@[simp] theorem chanRead_env_hostReads : (chanRead s).env.hostReads = s.env.hostReads := rfl
@[simp] theorem chanRead_env_readAnswers : (chanRead s).env.readAnswers = s.env.readAnswers.tail := rfl
@[simp] theorem chanRead_env_chanLog : (chanRead s).env.chanLog = s.env.chanLog ++ [.read Config.readChunk s.params.readTimeout (readAnswer s)] := rfl

@[simp] theorem chanClose_status : (chanClose s).status = s.status := rfl
@[simp] theorem chanClose_cls : (chanClose s).cls = s.cls := rfl
@[simp] theorem chanClose_crc : (chanClose s).crc = s.crc := rfl
@[simp] theorem chanClose_tidNext : (chanClose s).tidNext = s.tidNext := rfl
@[simp] theorem chanClose_tidOut : (chanClose s).tidOut = s.tidOut := rfl
@[simp] theorem chanClose_tidRx : (chanClose s).tidRx = s.tidRx := rfl
@[simp] theorem chanClose_reads : (chanClose s).reads = s.reads := rfl
@[simp] theorem chanClose_txb : (chanClose s).txb = s.txb := rfl
@[simp] theorem chanClose_acc : (chanClose s).acc = s.acc := rfl
@[simp] theorem chanClose_txm : (chanClose s).txm = s.txm := rfl
@[simp] theorem chanClose_rx : (chanClose s).rx = s.rx := rfl
@[simp] theorem chanClose_closeIssued : (chanClose s).closeIssued = s.closeIssued := rfl
@[simp] theorem chanClose_params : (chanClose s).params = s.params := rfl
@[simp] theorem chanClose_env_script : (chanClose s).env.script = s.env.script := rfl
@[simp] theorem chanClose_env_readAnswers : (chanClose s).env.readAnswers = s.env.readAnswers := rfl
@[simp] theorem chanClose_env_writeAnswers : (chanClose s).env.writeAnswers = s.env.writeAnswers := rfl
@[simp] theorem chanClose_env_hostReads : (chanClose s).env.hostReads = s.env.hostReads := rfl
@[simp] theorem chanClose_env_draws : (chanClose s).env.draws = s.env.draws := rfl
@[simp] theorem chanClose_env_chanLog : (chanClose s).env.chanLog = s.env.chanLog ++ [.close] := rfl

@[simp] theorem appendAcc_status (bs : List Byte) : (appendAcc bs s).status = s.status := rfl
@[simp] theorem appendAcc_cls (bs : List Byte) : (appendAcc bs s).cls = s.cls := rfl
@[simp] theorem appendAcc_crc (bs : List Byte) : (appendAcc bs s).crc = s.crc := rfl
@[simp] theorem appendAcc_tidNext (bs : List Byte) : (appendAcc bs s).tidNext = s.tidNext := rfl
@[simp] theorem appendAcc_tidOut (bs : List Byte) : (appendAcc bs s).tidOut = s.tidOut := rfl
@[simp] theorem appendAcc_tidRx (bs : List Byte) : (appendAcc bs s).tidRx = s.tidRx := rfl
@[simp] theorem appendAcc_reads (bs : List Byte) : (appendAcc bs s).reads = bumpReads s.reads := rfl
@[simp] theorem appendAcc_txb (bs : List Byte) : (appendAcc bs s).txb = s.txb := rfl
@[simp] theorem appendAcc_txm (bs : List Byte) : (appendAcc bs s).txm = s.txm := rfl
@[simp] theorem appendAcc_rx (bs : List Byte) : (appendAcc bs s).rx = s.rx := rfl
@[simp] theorem appendAcc_closeIssued (bs : List Byte) : (appendAcc bs s).closeIssued = s.closeIssued := rfl
@[simp] theorem appendAcc_params (bs : List Byte) : (appendAcc bs s).params = s.params := rfl
@[simp] theorem appendAcc_env (bs : List Byte) : (appendAcc bs s).env = s.env := rfl
@[simp] theorem appendAcc_acc_bytes (bs : List Byte) : (appendAcc bs s).acc.bytes = keepLast s.params.accCap (s.acc.bytes ++ bs) := rfl
@[simp] theorem appendAcc_acc_idx (bs : List Byte) : (appendAcc bs s).acc.idx = s.acc.idx := rfl

@[simp] theorem commitRx_status (m : Msg) (a n : Nat) : (commitRx m a n s).status = s.status := rfl
@[simp] theorem commitRx_cls (m : Msg) (a n : Nat) : (commitRx m a n s).cls = s.cls := rfl
@[simp] theorem commitRx_crc (m : Msg) (a n : Nat) : (commitRx m a n s).crc = s.crc := rfl
@[simp] theorem commitRx_tidNext (m : Msg) (a n : Nat) : (commitRx m a n s).tidNext = s.tidNext := rfl
@[simp] theorem commitRx_tidOut (m : Msg) (a n : Nat) : (commitRx m a n s).tidOut = s.tidOut := rfl
@[simp] theorem commitRx_tidRx (m : Msg) (a n : Nat) : (commitRx m a n s).tidRx = s.tidRx := rfl
@[simp] theorem commitRx_reads (m : Msg) (a n : Nat) : (commitRx m a n s).reads = s.reads := rfl
@[simp] theorem commitRx_txb (m : Msg) (a n : Nat) : (commitRx m a n s).txb = s.txb := rfl
@[simp] theorem commitRx_acc (m : Msg) (a n : Nat) : (commitRx m a n s).acc = s.acc := rfl
@[simp] theorem commitRx_txm (m : Msg) (a n : Nat) : (commitRx m a n s).txm = s.txm := rfl
@[simp] theorem commitRx_closeIssued (m : Msg) (a n : Nat) : (commitRx m a n s).closeIssued = s.closeIssued := rfl
@[simp] theorem commitRx_params (m : Msg) (a n : Nat) : (commitRx m a n s).params = s.params := rfl
@[simp] theorem commitRx_env (m : Msg) (a n : Nat) : (commitRx m a n s).env = s.env := rfl
@[simp] theorem commitRx_rx_kind (m : Msg) (a n : Nat) : (commitRx m a n s).rx.kind = some m.kind := rfl
@[simp] theorem commitRx_rx_cells (m : Msg) (a n : Nat) : (commitRx m a n s).rx.cells = m.values := rfl
@[simp] theorem commitRx_rx_err (m : Msg) (a n : Nat) : (commitRx m a n s).rx.err = m.err := rfl
@[simp] theorem commitRx_rx_count (m : Msg) (a n : Nat) : (commitRx m a n s).rx.count = m.count := rfl

@[simp] theorem resetAction_status : (resetAction s).status = Status.reset := rfl
@[simp] theorem resetAction_cls : (resetAction s).cls = { fc := 0#8, ftype := .unknown, rcat := .unknown } := rfl
@[simp] theorem resetAction_crc : (resetAction s).crc = 0xFFFF#16 := rfl
@[simp] theorem resetAction_tidNext : (resetAction s).tidNext = s.params.tidInit := rfl
@[simp] theorem resetAction_tidOut : (resetAction s).tidOut = 0#16 := rfl
@[simp] theorem resetAction_tidRx : (resetAction s).tidRx = 0#16 := rfl
@[simp] theorem resetAction_reads : (resetAction s).reads = 0#32 := rfl
@[simp] theorem resetAction_txb : (resetAction s).txb = Buf.reset := rfl
@[simp] theorem resetAction_acc : (resetAction s).acc = Buf.reset := rfl
@[simp] theorem resetAction_txm : (resetAction s).txm = TxMsg.reset := rfl
@[simp] theorem resetAction_rx : (resetAction s).rx = RxMsg.reset := rfl
@[simp] theorem resetAction_closeIssued : (resetAction s).closeIssued = true := rfl
@[simp] theorem resetAction_params : (resetAction s).params = s.params := rfl
@[simp] theorem resetAction_env : (resetAction s).env = s.env := rfl

@[simp] theorem popTurn_status : (popTurn s).status = s.status := rfl
@[simp] theorem popTurn_cls : (popTurn s).cls = s.cls := rfl
@[simp] theorem popTurn_crc : (popTurn s).crc = s.crc := rfl
@[simp] theorem popTurn_tidNext : (popTurn s).tidNext = s.tidNext := rfl
@[simp] theorem popTurn_tidOut : (popTurn s).tidOut = s.tidOut := rfl
@[simp] theorem popTurn_tidRx : (popTurn s).tidRx = s.tidRx := rfl
@[simp] theorem popTurn_reads : (popTurn s).reads = s.reads := rfl
@[simp] theorem popTurn_txb : (popTurn s).txb = s.txb := rfl
@[simp] theorem popTurn_acc : (popTurn s).acc = s.acc := rfl
@[simp] theorem popTurn_txm : (popTurn s).txm = s.txm := rfl
@[simp] theorem popTurn_rx : (popTurn s).rx = s.rx := rfl
@[simp] theorem popTurn_closeIssued : (popTurn s).closeIssued = s.closeIssued := rfl
@[simp] theorem popTurn_params : (popTurn s).params = s.params := rfl
@[simp] theorem popTurn_env : (popTurn s).env = { s.env with script := s.env.script.tail } := rfl

@[simp] theorem dropWrite_status : (dropWrite s).status = { s.status with ovr := true } := rfl
@[simp] theorem dropWrite_cls : (dropWrite s).cls = s.cls := rfl
@[simp] theorem dropWrite_crc : (dropWrite s).crc = s.crc := rfl
@[simp] theorem dropWrite_tidNext : (dropWrite s).tidNext = s.tidNext := rfl
@[simp] theorem dropWrite_tidOut : (dropWrite s).tidOut = s.tidOut := rfl
@[simp] theorem dropWrite_tidRx : (dropWrite s).tidRx = s.tidRx := rfl
@[simp] theorem dropWrite_reads : (dropWrite s).reads = s.reads := rfl
@[simp] theorem dropWrite_txb : (dropWrite s).txb = s.txb := rfl
@[simp] theorem dropWrite_acc : (dropWrite s).acc = s.acc := rfl
@[simp] theorem dropWrite_txm : (dropWrite s).txm = s.txm := rfl
@[simp] theorem dropWrite_rx : (dropWrite s).rx = s.rx := rfl
@[simp] theorem dropWrite_closeIssued : (dropWrite s).closeIssued = s.closeIssued := rfl
@[simp] theorem dropWrite_params : (dropWrite s).params = s.params := rfl
@[simp] theorem dropWrite_env : (dropWrite s).env = s.env := rfl

/-- A committed message reads back with its start and length (42_codec.md R167). -/
theorem commitRx_rx (m : Msg) (a n : Nat) :
    (commitRx m a n s).rx =
      { kind := some m.kind, sid := m.sid, fc := m.fc, addr := m.addr, count := m.count, err := m.err, cells := m.values,
        idx := 0#16, start := wordOfLength a, len := wordOfLength n } := rfl

end Sys2Proof.Machine
end

