-- ==== Sys2Proof/Laws/Ops.lean ====
section
/-! SUPPORT. One lemma per shared operation: everything it can do, said once. -/

namespace Sys2Proof.Machine

/-- A decode command commits a message and reports it, or reports an error and nothing else. -/
theorem settleDecode_cases (r : Except DecodeErr Msg) (a n : Nat) (s : State) :
    (∃ m, r = .ok m ∧ settleDecode r a n s = finish (successCode m) (commitRx m a n s)) ∨
    (∃ e, r = .error e ∧ settleDecode r a n s = finish e.result s) := by
  cases r with
  | ok m => exact .inl ⟨m, rfl, rfl⟩
  | error e => exact .inr ⟨e, rfl, rfl⟩

/-- An MBAP command: no header, or TID_RX and then a decode. -/
theorem settleMbap_cases (h : MbapResult) (s : State) :
    (h = .noHeader ∧ settleMbap h s = finish .malformed s) ∨
    (∃ tid r n, h = .header tid r n ∧ settleMbap h s = settleDecode r 0 n { s with tidRx := tid }) := by
  cases h with
  | noHeader => exact .inl ⟨rfl, rfl⟩
  | header tid r n => exact .inr ⟨tid, r, n, rfl, rfl⟩

theorem openWith_of_open {t : Transport} {s : State} (h : s.status.isOpen = true) :
    openWith t s = finish .illegalCommand s := by
  simp [openWith, h]

theorem openWith_of_closed {t : Transport} {s : State} (h : s.status.isOpen = false) :
    openWith t s =
      { s with
        status := { s.status with
          isOpen := true, transport := t, fsm := .idle, result := .ok, busy := false, done := true }
        closeIssued := false
        tidNext := s.params.tidInit } := by
  simp [openWith, h, finish, setFsm]

/-- CLOSE, whatever it finds: the channel told to close unless it has been, the connection closed, and the exchange aborted if
there is one. -/
theorem closeConnection_eq (s : State) :
    closeConnection s =
      { s with
        status := { s.status with
          isOpen := false
          fsm := if s.status.busy then .failed else .idle
          result := if s.status.busy then .connectionClosed else .ok
          busy := false
          done := true }
        closeIssued := true
        env := if s.closeIssued then s.env else (chanClose s).env } := by
  cases hb : s.status.busy <;> cases hc : s.closeIssued <;>
    simp [closeConnection, closeChannelOnce, hb, hc, finish, setFsm, chanClose]

theorem writeDone_eq (a : WriteAnswer) (s : State) :
    writeDone a s =
      finish (match a with
        | .ok => .ok
        | .err => transportFailure s.status.transport) s := by
  cases a <;> rfl

/-- A send writes the frame into TXBUF, makes one channel write, and reports its answer. -/
theorem sendFrame_eq (f : List Byte) (s : State) :
    sendFrame f s =
      { s with
        status := { s.status with
          result := match writeAnswer s with
            | .ok => .ok
            | .err => transportFailure s.status.transport
          busy := false
          done := true }
        txb := { s.txb with bytes := f }
        env := (chanWrite f s).env } := by
  have h : writeAnswer { s with txb := { s.txb with bytes := f } } = writeAnswer s := rfl
  simp only [sendFrame, h]
  cases writeAnswer s <;> rfl

theorem sendReply_of_closed {body : List Byte} {s : State} (h : s.status.isOpen = false) :
    sendReply body s = finish .connectionClosed s := by
  simp [sendReply, h]

theorem sendReply_of_open {body : List Byte} {s : State} (h : s.status.isOpen = true) :
    sendReply body s = sendFrame (frameFor s.status.transport body (replyTid s)) s := by
  simp [sendReply, h]

theorem startExchange_of_closed {r : Role} {s : State} (h : s.status.isOpen = false) :
    startExchange r s = finish .connectionClosed s := by
  simp [startExchange, h]

theorem startExchange_of_open {r : Role} {s : State} (h : s.status.isOpen = true) :
    startExchange r s =
      { s with
        acc := { bytes := [], idx := 0#32 }
        reads := 0#32
        status := { s.status with lastErr := none, role := r, fsm := .awaitingFrame, busy := true, done := false } } := by
  simp [startExchange, h]

/-- A recoverable failure goes on reading, or ends with TIMEOUT at the read limit. -/
theorem notYet_cases (e : DecodeErr) (s : State) :
    (limitReached s.params.readLimit s.reads = true ∧
      notYet e s = fatal .timeout { s with status := { s.status with lastErr := some e } }) ∨
    (limitReached s.params.readLimit s.reads = false ∧
      notYet e s = { s with status := { s.status with lastErr := some e, fsm := .retrying } }) := by
  cases h : limitReached s.params.readLimit s.reads <;> simp [notYet, h, setFsm]

/-- The attempt ends in one of three ways: a sound message accepted, a wrong transaction ID, or a recoverable failure; TID_RX may
have changed before. -/
theorem attempt_cases (s : State) :
    ∃ tid, (s.status.transport = .rtu → tid = s.tidRx) ∧
      ((∃ m a n, m.sound ∧ attempt s = accept m a n { s with tidRx := tid }) ∨
       (s.status.role = .response ∧ tid ≠ s.tidOut ∧ attempt s = fatal .invalidMessageId { s with tidRx := tid }) ∨
       (∃ e, attempt s = notYet e { s with tidRx := tid })) := by
  have scan : ∀ (bs : List Byte) (k : Nat) (m : Msg) (a n : Nat),
      rtuScan s.status.role k bs = some (m, a, n) → m.sound := by
    intro bs
    induction bs with
    | nil => intro k m a n h; cases h
    | cons b bs ih =>
      intro k m a n h
      simp only [rtuScan] at h
      split at h
      · rename_i m' hd
        simp only [Option.some.injEq, Prod.mk.injEq] at h
        exact h.1 ▸ decodeFrame_sound hd
      · exact ih _ _ _ _ h
  cases ht : s.status.transport with
  | rtu =>
    refine ⟨s.tidRx, fun _ => rfl, ?_⟩
    simp only [attempt, ht, rtuSync]
    cases hr : rtuScan s.status.role 0 s.acc.bytes with
    | some p => exact .inl ⟨p.1, p.2.1, p.2.2, scan _ _ _ _ _ hr, rfl⟩
    | none => exact .inr (.inr ⟨_, rfl⟩)
  | tcp =>
    simp only [attempt, ht]
    cases hp : mbapParse s.acc.bytes s.status.role with
    | noHeader => exact ⟨s.tidRx, by simp, .inr (.inr ⟨_, rfl⟩)⟩
    | header tid r n =>
      refine ⟨tid, by simp, ?_⟩
      simp only [tcpJudge]
      by_cases hj : s.status.role = .response ∧ tid ≠ s.tidOut
      · simp only [if_pos hj]
        exact .inr (.inl ⟨hj.1, hj.2, rfl⟩)
      · simp only [if_neg hj]
        cases r with
        | ok m => exact .inl ⟨m, 0, n, mbapParse_sound hp, rfl⟩
        | error e => exact .inr (.inr ⟨e, rfl⟩)

/-- A read step answers next exactly when the channel's answer has its shape. -/
theorem readStep_next {s t : State} (h : readStep s = .next t) :
    (readAnswer s).wf = true ∧ t = afterRead (readAnswer s) (chanRead s) := by
  unfold readStep at h
  split at h
  · rename_i hw
    exact ⟨hw, by cases h; rfl⟩
  · cases h

/-- Every command answers a next state. -/
theorem exec_next (i : Instr) (s : State) : ∃ t, exec i s = .next t := by
  cases i <;> exact ⟨_, rfl⟩

/-- A write of CMD: dropped, illegal, or a command executed. -/
theorem runCommand_cases (w : Word) (s : State) :
    (s.status.busy = true ∧ w ≠ closeWord ∧ runCommand w s = .next (dropWrite s)) ∨
    ((s.status.busy = false ∨ w = closeWord) ∧
      ((∃ e, decode w = .error e ∧ runCommand w s = .next (finish .illegalCommand s)) ∨
       (∃ i, decode w = .ok i ∧ runCommand w s = exec i s))) := by
  by_cases hb : s.status.busy = true ∧ w ≠ closeWord
  · exact .inl ⟨hb.1, hb.2, by simp [runCommand, hb]⟩
  · refine .inr ⟨by by_cases h1 : s.status.busy = true <;> simp_all, ?_⟩
    cases hd : decode w with
    | error e => exact .inl ⟨e, rfl, by simp [runCommand, hb, hd]⟩
    | ok i => exact .inr ⟨i, rfl, by simp [runCommand, hb, hd]⟩

/-- A host write: without effect, taken by STATUS, dropped, taken by a read-write register, or a command. -/
theorem hostWrite_cases (off : Nat) (v : Word) (s : State) :
    hostWrite off v s = .next s ∨
    (off = 4 ∧ hostWrite off v s = .next (writeStatus v s)) ∨
    (s.status.busy = true ∧ hostWrite off v s = .next (dropWrite s)) ∨
    (∃ r, r.access = .rw ∧ s.status.busy = false ∧ hostWrite off v s = .next (writeReg r v s)) ∨
    (off = 0 ∧ hostWrite off v s = runCommand v s) := by
  unfold hostWrite
  split
  · exact .inl rfl
  · rename_i r hr
    have ho : r.offset = off := by
      have := List.find?_some hr
      simpa using this
    cases ha : r.access with
    | wo =>
      refine .inr (.inr (.inr (.inr ⟨?_, by simp⟩)))
      cases r <;> simp [Reg.access] at ha
      exact ho.symm
    | roW1c =>
      refine .inr (.inl ⟨?_, by simp⟩)
      cases r <;> simp [Reg.access] at ha
      exact ho.symm
    | ro => exact .inl (by simp)
    | rw =>
      cases hb : s.status.busy with
      | true => exact .inr (.inr (.inl ⟨rfl, by simp⟩))
      | false => exact .inr (.inr (.inr (.inl ⟨r, ha, rfl, by simp⟩)))

/-- A host write always answers a next state. -/
theorem hostWrite_next (off : Nat) (v : Word) (s : State) : ∃ t, hostWrite off v s = .next t := by
  rcases hostWrite_cases off v s with h | ⟨-, h⟩ | ⟨-, h⟩ | ⟨r, -, -, h⟩ | ⟨-, h⟩
  · exact ⟨_, h⟩
  · exact ⟨_, h⟩
  · exact ⟨_, h⟩
  · exact ⟨_, h⟩
  · rcases runCommand_cases v s with ⟨-, -, hr⟩ | ⟨-, ⟨e, -, hr⟩ | ⟨i, -, hr⟩⟩
    · exact ⟨_, h.trans hr⟩
    · exact ⟨_, h.trans hr⟩
    · obtain ⟨t, ht⟩ := exec_next i s
      exact ⟨t, h.trans (hr.trans ht)⟩

end Sys2Proof.Machine
end

