-- ==== Sys2Proof/Laws/Step.lean ====
section
/-! SUPPORT. What a step can do, said once: every later invariant is a case analysis of `step_cases`; and the parts of the read step in the
terms of the statements. -/

namespace Sys2Proof.Machine

/-- What a step that answers next did: a read step of the engine (on the state itself or with its turn used up), nothing, a reset, a
host read, or a host write. -/
theorem step_cases {s t : State} (h : step s = .next t) :
    (∃ u, (u = s ∨ u = popTurn s) ∧ engineEnabled u.status = true ∧ readStep u = .next t) ∨
    (engineEnabled s.status = false ∧ (t = s ∨ t = popTurn s)) ∨
    (∃ rest, s.env.script = .reset :: rest ∧ t = resetAction (popTurn s)) ∨
    (∃ off rest, s.env.script = .host (.read off) :: rest ∧ off % 4 = 0 ∧
      t = { popTurn s with env := { (popTurn s).env with
              hostReads := s.env.hostReads ++ [(off, hostRead off (popTurn s))] } }) ∨
    (∃ off v rest, s.env.script = .host (.write off v) :: rest ∧ off % 4 = 0 ∧ hostWrite off v (popTurn s) = .next t) := by
  unfold step takeTurn at h
  split at h
  · unfold engineTurn at h
    split at h
    · exact .inl ⟨s, .inl rfl, ‹_›, h⟩
    · cases h
      exact .inr (.inl ⟨by simp_all, .inl rfl⟩)
  · unfold engineTurn at h
    split at h
    · exact .inl ⟨popTurn s, .inr rfl, ‹_›, h⟩
    · cases h
      exact .inr (.inl ⟨by simp_all, .inr rfl⟩)
  · rename_i rest hs
    cases h
    exact .inr (.inr (.inl ⟨rest, hs, rfl⟩))
  · rename_i op rest hs
    split at h
    · rename_i hi
      cases op with
      | read off =>
        cases h
        exact .inr (.inr (.inr (.inl ⟨off, rest, hs, by simpa [HostOp.inInterface] using hi, rfl⟩)))
      | write off v =>
        exact .inr (.inr (.inr (.inr ⟨off, v, rest, hs, by simpa [HostOp.inInterface] using hi, h⟩)))
      | subword w off => simp [HostOp.inInterface] at hi
    · split at h
      · exact .inl ⟨s, .inl rfl, ‹_›, h⟩
      · cases h

/-- A channel read changes the environment only: one answer used up, one request logged. -/
theorem chanRead_eq (s : State) :
    chanRead s =
      { s with env := { s.env with
          readAnswers := s.env.readAnswers.tail
          draws := if s.env.readAnswers = [] then s.env.draws + 1 else s.env.draws
          chanLog := s.env.chanLog ++ [.read 1024 s.params.readTimeout (readAnswer s)] } } := by
  simp [chanRead, List.isEmpty_iff, Config.readChunk]

theorem bumpReads_eq (r : Word) : bumpReads r = if r.toNat + 1 < 2 ^ 32 then r + 1#32 else r := by
  apply BitVec.eq_of_toNat_eq
  have := r.isLt
  simp only [bumpReads, BitVec.toNat_ofNat]
  split
  · rw [BitVec.toNat_add]
    simp
    omega
  · omega

theorem keepLast_eq (cap : Option Nat) (bs : List Byte) :
    keepLast cap bs = match cap with
      | none => bs
      | some c => bs.drop (bs.length - c) := by
  cases cap with
  | none => rfl
  | some c =>
    simp only [keepLast]
    split
    · rfl
    · rw [Nat.sub_eq_zero_of_le (by omega)]
      rfl

/-- A read answered with data leaves `afterData`, on which the attempt runs. -/
theorem appendAcc_chanRead (s : State) (bs : List Byte) : appendAcc bs (chanRead s) = s.afterData bs := by
  simp only [chanRead_eq, appendAcc, State.afterData, bumpReads_eq, keepLast_eq]
  all_goals cases s.params.accCap <;> rfl

theorem accept_eq_withFrame (m : Msg) (start len : Nat) (s : State) : accept m start len s = s.withFrame m start len := by
  have : successCode m = if m.kind = .exception then .exceptionReceived else .ok := by cases h : m.kind <;> simp [successCode, h]
  simp [accept, State.withFrame, finish, setFsm, commitRx, this]

theorem notYet_eq_withoutFrame (e : DecodeErr) (s : State) : notYet e s = s.withoutFrame e := by
  unfold notYet State.withoutFrame
  cases s.params.readLimit with
  | none => simp [limitReached, setFsm]
  | some n =>
    simp only [limitReached]
    by_cases h : n ≤ s.reads.toNat <;> simp [h, fatal, finish, setFsm]

end Sys2Proof.Machine
end

