-- ==== Sys2Proof/Laws/Memory.lean ====
section
/-! SUPPORT. The buffers keep their form (`Memory.wf`) under every operation that writes one, and reset has it; and the two basic laws of a
data port: a read after a write, and every other byte as it was. -/

namespace Sys2Proof.Machine

theorem keepLast_length {cap : Option Nat} {bs : List Byte} {c : Nat} (h : cap = some c) : (keepLast cap bs).length ≤ c := by
  subst h
  by_cases hc : c < bs.length
  · simp only [keepLast, hc, if_true, List.length_drop]
    omega
  · simp only [keepLast, hc, if_false]
    omega

theorem cappedLength_le {cap : Option Nat} {n c : Nat} (h : cap = some c) : cappedLength cap n ≤ c := by
  subst h
  simp only [cappedLength]
  split <;> omega

@[simp] theorem Buf.resize_length (b : Buf) (n : Nat) : (b.resize n).bytes.length = n := by
  simp only [Buf.resize]
  split <;> simp <;> omega

@[simp] theorem Buf.writePort_length (b : Buf) (v : Word) : (b.writePort v).bytes.length = b.bytes.length := by
  simp [Buf.writePort]

@[simp] theorem reshape_length (cells : List Cell) (pad : Cell) (n : Nat) : (reshape cells pad n).length = n := by
  simp only [reshape]
  split <;> simp <;> omega

@[simp] theorem writeCellPort_length (cells : List Cell) (idx : Half) (v : Word) :
    (writeCellPort cells idx v).length = cells.length := by
  simp only [writeCellPort]
  split <;> simp

/-- A byte written through a data port reads back (20_memory.md R64). -/
theorem Buf.readPort_writePort (b : Buf) (v : Word) (h : b.idx.toNat < b.bytes.length) :
    (b.writePort v).readPort = (v.setWidth 8).setWidth 32 := by
  simp [Buf.writePort, Buf.readPort, byteAt, h]

/-- A write through a data port leaves every other byte as it was (20_memory.md R64). -/
theorem Buf.writePort_other (b : Buf) (v : Word) (i : Nat) (h : i ≠ b.idx.toNat) :
    byteAt (b.writePort v).bytes i = byteAt b.bytes i := by
  simp [Buf.writePort, byteAt, List.getD, Ne.symm h]

/-- The form, field by field. -/
theorem Memory.wf_iff (s : State) :
    Memory.wf s = true ↔
      (∀ c, s.params.accCap = some c → s.acc.bytes.length ≤ c) ∧ s.txm.cells.length ≤ 65535 ∧ s.rx.cells.length ≤ 65535 := by
  unfold Memory.wf
  cases s.params.accCap <;> simp [and_assoc]

/-- The form looks only at the buffers and the capacity. -/
theorem Memory.wf_congr {s t : State} (hp : t.params = s.params) (ha : t.acc.bytes = s.acc.bytes)
    (ht : t.txm.cells = s.txm.cells) (hr : t.rx.cells = s.rx.cells) : Memory.wf t = Memory.wf s := by
  simp [Memory.wf, hp, ha, ht, hr]

theorem Memory.wf_resetWith (p : Params) (e : Env) : Memory.wf (State.resetWith p e) = true := by
  rw [Memory.wf_iff]
  simp [State.resetWith, Buf.reset, TxMsg.reset, RxMsg.reset]

theorem Memory.wf_finish (c : ResultCode) (s : State) : Memory.wf (finish c s) = Memory.wf s := Memory.wf_congr rfl rfl rfl rfl

theorem Memory.wf_setFsm (f : Fsm) (s : State) : Memory.wf (setFsm f s) = Memory.wf s := Memory.wf_congr rfl rfl rfl rfl

theorem Memory.wf_chanRead (s : State) : Memory.wf (chanRead s) = Memory.wf s := Memory.wf_congr rfl rfl rfl rfl

theorem Memory.wf_appendAcc {s : State} (h : Memory.wf s = true) (bs : List Byte) : Memory.wf (appendAcc bs s) = true := by
  rw [Memory.wf_iff] at h ⊢
  exact ⟨fun c hc => keepLast_length hc, h.2⟩

theorem Memory.wf_commitRx {s : State} (h : Memory.wf s = true) {m : Msg} (hm : m.sound) (a n : Nat) :
    Memory.wf (commitRx m a n s) = true := by
  rw [Memory.wf_iff] at h ⊢
  exact ⟨h.1, h.2.1, hm.cells⟩

theorem Memory.wf_settleDecode {s : State} (h : Memory.wf s = true) {r : Except DecodeErr Msg} (hr : ∀ m, r = .ok m → m.sound)
    (a n : Nat) : Memory.wf (settleDecode r a n s) = true := by
  rcases settleDecode_cases r a n s with ⟨m, hm, he⟩ | ⟨e, -, he⟩
  · rw [he, Memory.wf_finish]
    exact Memory.wf_commitRx h (hr m hm) a n
  · rw [he, Memory.wf_finish]
    exact h

theorem Memory.wf_settleMbap {s : State} (h : Memory.wf s = true) (r : Role) (bs : List Byte) :
    Memory.wf (settleMbap (mbapParse bs r) s) = true := by
  rcases settleMbap_cases (mbapParse bs r) s with ⟨-, he⟩ | ⟨tid, d, n, hp, he⟩
  · rw [he, Memory.wf_finish]
    exact h
  · rw [he]
    have h' : Memory.wf { s with tidRx := tid } = true := (Memory.wf_congr (s := s) rfl rfl rfl rfl).trans h
    exact Memory.wf_settleDecode h' (fun m hm => mbapParse_sound (hm ▸ hp)) 0 n

theorem Memory.wf_writeReg {s : State} (h : Memory.wf s = true) (r : Reg) (v : Word) : Memory.wf (writeReg r v s) = true := by
  cases r <;> simp only [writeReg] <;> rw [Memory.wf_iff] at h ⊢ <;> simp_all
  exact fun c hc => cappedLength_le rfl

/-- No command breaks the form of the buffers. -/
theorem Memory.wf_exec {s t : State} (h : Memory.wf s = true) {i : Instr} (he : exec i s = .next t) : Memory.wf t = true := by
  have same : ∀ {u : State}, u.params = s.params → u.acc.bytes = s.acc.bytes → u.txm.cells = s.txm.cells →
      u.rx.cells = s.rx.cells → Memory.wf u = true := fun hp ha ht hr => (Memory.wf_congr hp ha ht hr).trans h
  have opened : ∀ tr, Memory.wf (openWith tr s) = true := fun tr => by
    cases ho : s.status.isOpen
    · rw [openWith_of_closed ho]; exact same rfl rfl rfl rfl
    · rw [openWith_of_open ho]; exact same rfl rfl rfl rfl
  have replied : ∀ body, Memory.wf (sendReply body s) = true := fun body => by
    cases ho : s.status.isOpen
    · rw [sendReply_of_closed ho]; exact same rfl rfl rfl rfl
    · rw [sendReply_of_open ho, sendFrame_eq]; exact same rfl rfl rfl rfl
  have started : ∀ r, Memory.wf (startExchange r s) = true := fun r => by
    cases ho : s.status.isOpen
    · rw [startExchange_of_closed ho]; exact same rfl rfl rfl rfl
    · rw [startExchange_of_open ho]
      rw [Memory.wf_iff] at h ⊢
      exact ⟨by simp, h.2⟩
  cases i <;> simp only [exec] at he
  case setCount imm =>
    cases he
    rw [Memory.wf_finish]
    rw [Memory.wf_iff] at h ⊢
    refine ⟨h.1, ?_, h.2.2⟩
    have := imm.isLt
    simp; omega
  case decodeReq v => cases he; exact Memory.wf_settleDecode h (fun m hm => decodeFrame_sound hm) _ _
  case decodeRsp v => cases he; exact Memory.wf_settleDecode h (fun m hm => decodeFrame_sound hm) _ _
  case mbapDeframeReq => cases he; exact Memory.wf_settleMbap h _ _
  case mbapDeframeRsp => cases he; exact Memory.wf_settleMbap h _ _
  case openRtu => cases he; exact opened .rtu
  case openTcp => cases he; exact opened .tcp
  case close => cases he; rw [closeConnection_eq]; exact same rfl rfl rfl rfl
  case sendRequest =>
    cases he
    cases ho : s.status.isOpen
    · simp only [Bool.false_eq_true, if_false]; exact same rfl rfl rfl rfl
    · simp only [if_true]
      rw [sendFrame_eq]
      cases ht : s.status.transport <;> simp only [assignTid, ht] <;> exact same rfl rfl rfl rfl
  case sendResponse => cases he; exact replied _
  case sendException => cases he; exact replied _
  case awaitResponse => cases he; exact started _
  case awaitRequest => cases he; exact started _
  all_goals (cases he; exact same rfl rfl rfl rfl)

/-- An attempt to find a frame keeps the form of the buffers. -/
theorem Memory.wf_attempt {s : State} (h : Memory.wf s = true) : Memory.wf (attempt s) = true := by
  obtain ⟨tid, -, ⟨m, a, n, hm, he⟩ | ⟨-, -, he⟩ | ⟨e, he⟩⟩ := attempt_cases s
  all_goals rw [he]
  · have h' : Memory.wf { s with tidRx := tid } = true := (Memory.wf_congr (s := s) rfl rfl rfl rfl).trans h
    simp only [accept]
    rw [Memory.wf_finish, Memory.wf_setFsm]
    exact Memory.wf_commitRx h' hm a n
  · exact (Memory.wf_congr (s := s) rfl rfl rfl rfl).trans h
  · rcases notYet_cases e { s with tidRx := tid } with ⟨-, hn⟩ | ⟨-, hn⟩ <;> rw [hn] <;>
      exact (Memory.wf_congr (s := s) rfl rfl rfl rfl).trans h

/-- A read step keeps the form of the buffers. -/
theorem Memory.wf_readStep {s t : State} (h : Memory.wf s = true) (hr : readStep s = .next t) : Memory.wf t = true := by
  obtain ⟨-, ht⟩ := readStep_next hr
  have hc : Memory.wf (chanRead s) = true := (Memory.wf_chanRead s).trans h
  rw [ht]
  cases readAnswer s with
  | data bs => exact Memory.wf_attempt (Memory.wf_appendAcc hc bs)
  | closed => exact (Memory.wf_congr (s := s) rfl rfl rfl rfl).trans h
  | timedOut => exact (Memory.wf_congr (s := s) rfl rfl rfl rfl).trans h
  | ioError => exact (Memory.wf_congr (s := s) rfl rfl rfl rfl).trans h

/-- Every step keeps the form of the buffers. -/
theorem Memory.wf_step {s t : State} (h : Memory.wf s = true) (hs : step s = .next t) : Memory.wf t = true := by
  have hp : Memory.wf (popTurn s) = true := (Memory.wf_congr (s := s) rfl rfl rfl rfl).trans h
  rcases step_cases hs with ⟨u, hu, -, hr⟩ | ⟨-, rfl | rfl⟩ | ⟨rest, -, rfl⟩ | ⟨off, rest, -, -, rfl⟩ | ⟨off, v, rest, -, -, hw⟩
  · exact Memory.wf_readStep (by rcases hu with rfl | rfl <;> assumption) hr
  · exact h
  · exact hp
  · exact Memory.wf_resetWith _ _
  · exact (Memory.wf_congr (s := popTurn s) rfl rfl rfl rfl).trans hp
  · rcases hostWrite_cases off v (popTurn s) with he | ⟨-, he⟩ | ⟨-, he⟩ | ⟨r, -, -, he⟩ | ⟨-, he⟩
    · rw [he] at hw; cases hw; exact hp
    · rw [he] at hw; cases hw
      simp only [writeStatus]
      split
      · exact (Memory.wf_congr (s := popTurn s) rfl rfl rfl rfl).trans hp
      · exact hp
    · rw [he] at hw; cases hw
      exact (Memory.wf_congr (s := popTurn s) rfl rfl rfl rfl).trans hp
    · rw [he] at hw; cases hw; exact Memory.wf_writeReg hp r v
    · rw [he] at hw
      rcases runCommand_cases v (popTurn s) with ⟨-, -, hc⟩ | ⟨-, ⟨e, -, hc⟩ | ⟨i, -, hc⟩⟩
      · rw [hc] at hw; cases hw
        exact (Memory.wf_congr (s := popTurn s) rfl rfl rfl rfl).trans hp
      · rw [hc] at hw; cases hw
        rw [Memory.wf_finish]; exact hp
      · rw [hc] at hw; exact Memory.wf_exec hp hw

end Sys2Proof.Machine
end

