-- ==== Sys2Proof/Laws/PerInstr.lean ====
section
/-! SUPPORT. What is proved of every command as syntax, one lemma per constructor. EncodedWord: the word of the command has every always-reserved bit
0 and an operation code the map lists (30_encoding.md R80, R84). -/

namespace Sys2Proof.Laws.EncodedWord

/-- The word of the command is well-formed whatever its operand. -/
def Statement (i : Instr) : Prop := wordWellFormed (encode i) = true

/-- Format FI8: the immediate reaches no reserved bit and not the operation code. -/
theorem wordFI8_wellFormed (op imm : Byte) (h : op ≤ lastOp) : wordWellFormed (wordFI8 op imm) = true := by
  have h1 : wordFI8 op imm &&& reservedBits = 0#32 := by
    apply BitVec.eq_of_getLsbD_eq
    intro k hk
    simp only [wordFI8, reservedBits]
    interval_cases k <;> simp
  have h2 : (wordFI8 op imm).setWidth 8 = op := by
    apply BitVec.eq_of_getLsbD_eq
    intro k hk
    simp only [wordFI8]
    interval_cases k <;> simp
  rw [wordWellFormed, h1, h2]
  simpa using h

/-- Format FI16: as FI8. -/
theorem wordFI16_wellFormed (op : Byte) (imm : Half) (h : op ≤ lastOp) : wordWellFormed (wordFI16 op imm) = true := by
  have h1 : wordFI16 op imm &&& reservedBits = 0#32 := by
    apply BitVec.eq_of_getLsbD_eq
    intro k hk
    simp only [wordFI16, reservedBits]
    interval_cases k <;> simp
  have h2 : (wordFI16 op imm).setWidth 8 = op := by
    apply BitVec.eq_of_getLsbD_eq
    intro k hk
    simp only [wordFI16]
    interval_cases k <;> simp
  rw [wordWellFormed, h1, h2]
  simpa using h

theorem nop : Statement .nop := rfl
theorem crcInit : Statement .crcInit := rfl
theorem crcUpdate (imm : Byte) : Statement (.crcUpdate imm) := wordFI8_wellFormed _ _ (by decide)
theorem crcSpanTx : Statement .crcSpanTx := rfl
theorem crcSpanAcc : Statement .crcSpanAcc := rfl
theorem classify (imm : Byte) : Statement (.classify imm) := wordFI8_wellFormed _ _ (by decide)
theorem setCount (imm : Half) : Statement (.setCount imm) := wordFI16_wellFormed _ _ (by decide)
theorem encodeReq : Statement .encodeReq := rfl
theorem encodeRsp : Statement .encodeRsp := rfl
theorem encodeExc : Statement .encodeExc := rfl
theorem decodeReq (v : Bool) : Statement (.decodeReq v) := by cases v <;> rfl
theorem decodeRsp (v : Bool) : Statement (.decodeRsp v) := by cases v <;> rfl
theorem excTest (v : Bool) : Statement (.excTest v) := by cases v <;> rfl
theorem rtuFrame : Statement .rtuFrame := rfl
theorem mbapFrame (imm : Half) : Statement (.mbapFrame imm) := wordFI16_wellFormed _ _ (by decide)
theorem mbapDeframeReq : Statement .mbapDeframeReq := rfl
theorem mbapDeframeRsp : Statement .mbapDeframeRsp := rfl
theorem openRtu : Statement .openRtu := rfl
theorem openTcp : Statement .openTcp := rfl
theorem close : Statement .close := rfl
theorem sendRequest : Statement .sendRequest := rfl
theorem sendResponse : Statement .sendResponse := rfl
theorem sendException : Statement .sendException := rfl
theorem awaitResponse : Statement .awaitResponse := rfl
theorem awaitRequest : Statement .awaitRequest := rfl

end Sys2Proof.Laws.EncodedWord
end

