-- ==== Sys2Proof/Tests/Slice0.lean ====
section
/-! SUPPORT. The model's own tests: the refusals of WellFormed, the decoding of a word of every command, one step at a time from the
worked examples of spec/95_test_vectors.md, and a witness for the hypotheses of every statement that has some. -/

namespace Sys2Proof.Tests

open Sys2Proof Sys2Proof.Machine

/-! ## Small states -/

/-- The parameters of 95_test_vectors.md: `TID_INIT` 1, no read limit, no capacity. -/
def params : Params := { tidInit := 1#16, readLimit := none, accCap := none, readTimeout := 0 }

/-- The state after reset with those parameters. -/
def fresh : State := State.resetWith params Env.initial

/-- With the bytes in ACC. -/
def inAcc (bs : List Byte) : State := { fresh with acc := { bytes := bs, idx := 0#32 } }

/-- With the bytes in TXBUF. -/
def inTx (bs : List Byte) : State := { fresh with txb := { bytes := bs, idx := 0#32 } }

/-- With a TX message. -/
def message (sid fc : Byte) (addr : Half) (cells : List Cell) (err : Byte) : State :=
  { fresh with txm := { sid := sid, fc := fc, addr := addr, err := err, cells := cells, idx := 0#16 } }

/-- The state with the connection open. -/
def opened (t : Transport) (s : State) : State :=
  { s with status := { s.status with isOpen := true, transport := t }, closeIssued := false }

/-- The state with an exchange just started. -/
def awaiting (t : Transport) (r : Role) (s : State) : State :=
  { opened t s with status := { (opened t s).status with role := r, fsm := .awaitingFrame, busy := true } }

/-- The state with the channel's next read answer. -/
def answered (a : ReadAnswer) (s : State) : State := { s with env := { s.env with readAnswers := [a] } }

/-- The state with the channel's next write answer. -/
def written (a : WriteAnswer) (s : State) : State := { s with env := { s.env with writeAnswers := [a] } }

/-- The state with the turns to come. -/
def turns (ts : List Turn) (s : State) : State := { s with env := { s.env with script := ts } }

/-- The part of a next state a test looks at. -/
def view {α : Type} (o : Host.Outcome State Fault Refusal) (f : State → α) : Option α :=
  match o with
  | .next t => some (f t)
  | .fault _ | .refused _ => none

/-- A request for three holding registers (95_test_vectors.md 1.1). -/
def readReq : State := message 0x11#8 0x03#8 0x0010#16 [.word 0#16, .word 0#16, .word 0#16] 0x02#8

/-- The bytes of that request's body (95_test_vectors.md 1.1). -/
def readReqBody : List Byte := [0x11#8, 0x03#8, 0x00#8, 0x10#8, 0x00#8, 0x03#8]

/-- The exception reply of 95_test_vectors.md 1.2, with its RTU trailer. -/
def excFrame : List Byte := [0x11#8, 0x83#8, 0x02#8, 0xC1#8, 0x34#8]

/-- That exception reply in an MBAP frame with transaction ID `t` (95_test_vectors.md 1.2). -/
def excMbap (t : Byte) : List Byte := [0x00#8, t, 0x00#8, 0x00#8, 0x00#8, 0x03#8, 0x11#8, 0x83#8, 0x02#8]

/-! ## Well-formedness refuses -/

theorem test_word_with_reserved_bit_9_is_ill_formed : wordWellFormed 0x00000200#32 = false := by decide

theorem test_word_with_reserved_bit_13_is_ill_formed : wordWellFormed 0x00002003#32 = false := by decide

theorem test_word_with_reserved_op_is_ill_formed : wordWellFormed 0x00000017#32 = false := by decide

theorem test_word_of_a_command_is_well_formed : wordWellFormed 0x00001003#32 = true := by decide

theorem test_read_limit_0_is_ill_formed : ({ params with readLimit := some 0 } : Params).wf = false := by decide

theorem test_acc_cap_7_is_ill_formed : ({ params with accCap := some 7 } : Params).wf = false := by decide

theorem test_smallest_parameters_are_well_formed :
    ({ params with readLimit := some 1, accCap := some 8 } : Params).wf = true := by decide

theorem test_empty_answer_is_ill_formed : (ReadAnswer.data []).wf = false := by decide

theorem test_answer_of_1025_bytes_is_ill_formed : (ReadAnswer.data (List.replicate 1025 0#8)).wf = false := by decide +kernel

theorem test_answer_of_1024_bytes_is_well_formed : (ReadAnswer.data (List.replicate 1024 0#8)).wf = true := by decide +kernel

/-- Every command is well-formed: its operand types are its fields (30_encoding.md R87), so what can be ill-formed is a word. -/
theorem test_largest_immediates_are_well_formed :
    (Instr.crcUpdate 0xFF#8).wf = true ∧ (Instr.setCount 0xFFFF#16).wf = true := by decide

/-- A step stops on a read answer outside its shape (93_implementation_defined.md U16). -/
theorem test_empty_answer_is_refused :
    readStep (answered (.data []) (awaiting .rtu .request fresh)) = .refused .channelAnswerOutsideContract := by rfl

/-! ## Decoding: words written out bit by bit from 30_encoding.md R81 and R82 -/

theorem test_decode_f0_crc_family :
    decode 0b0000000000000000_000_0_0000_00000001#32 = .ok .crcInit ∧
    decode 0b00000000_00010001_00000000_00000010#32 = .ok (.crcUpdate 0x11#8) ∧
    decode 0b0000000000000000_000_0_0000_00000011#32 = .ok .crcSpanTx ∧
    decode 0b0000000000000000_000_1_0000_00000011#32 = .ok .crcSpanAcc := by decide

theorem test_decode_classify_family :
    decode 0b0000000000000000_000_0_0000_00000000#32 = .ok .nop ∧
    decode 0b00000000_10000011_00000000_00000100#32 = .ok (.classify 0x83#8) ∧
    decode 0b1000000000000011_00000000_00000101#32 = .ok (.setCount 0x8003#16) := by decide

theorem test_decode_codec_family :
    decode 0b0000000000000000_000_0_0000_00000110#32 = .ok .encodeReq ∧
    decode 0b0000000000000000_000_0_0000_00000111#32 = .ok .encodeRsp ∧
    decode 0b0000000000000000_000_0_0000_00001000#32 = .ok .encodeExc ∧
    decode 0b00000000000000000000000_1_00001001#32 = .ok (.decodeReq true) ∧
    decode 0b00000000000000000000000_0_00001001#32 = .ok (.decodeReq false) ∧
    decode 0b00000000000000000000000_1_00001010#32 = .ok (.decodeRsp true) ∧
    decode 0b00000000000000000000000_1_00001011#32 = .ok (.excTest true) := by decide

theorem test_decode_framing_family :
    decode 0b0000000000000000_000_0_0000_00001100#32 = .ok .rtuFrame ∧
    decode 0b0001001000110100_00000000_00001101#32 = .ok (.mbapFrame 0x1234#16) ∧
    decode 0b0000000000000000_000_0_0000_00001110#32 = .ok .mbapDeframeReq ∧
    decode 0b0000000000000000_000_0_0000_00001111#32 = .ok .mbapDeframeRsp := by decide

theorem test_decode_connection_family :
    decode 0b0000000000000000_000_0_0000_00010000#32 = .ok .openRtu ∧
    decode 0b0000000000000000_000_1_0000_00010000#32 = .ok .openTcp ∧
    decode 0b0000000000000000_000_0_0000_00010001#32 = .ok .close ∧
    decode 0b0000000000000000_000_0_0000_00010010#32 = .ok .sendRequest ∧
    decode 0b0000000000000000_000_0_0000_00010011#32 = .ok .sendResponse ∧
    decode 0b0000000000000000_000_0_0000_00010100#32 = .ok .sendException ∧
    decode 0b0000000000000000_000_0_0000_00010101#32 = .ok .awaitResponse ∧
    decode 0b0000000000000000_000_0_0000_00010110#32 = .ok .awaitRequest := by decide

/-- The illegal words of 95_test_vectors.md 2.2 and 3.3. -/
theorem test_decode_refuses_illegal_words :
    decode 0x000000FF#32 = .error .reservedOp ∧ decode 0x80000000#32 = .error .reservedBits ∧
    decode 0x00000100#32 = .error .reservedBits ∧ decode 0x00000101#32 = .error .reservedBits ∧
    decode 0x00010001#32 = .error .reservedBits ∧ decode 0x00010003#32 = .error .reservedBits ∧
    decode 0x00002003#32 = .error .reservedBits ∧ decode 0x0000020A#32 = .error .reservedBits ∧
    decode 0x01110002#32 = .error .reservedBits ∧ decode 0x00011010#32 = .error .reservedBits := by decide

theorem test_decodeTableWord_reads_and_refuses :
    decodeTableWord 32 0x00011005 = none ∧ decodeTableWord 32 0x00010005 = some (.setCount 1#16) := by decide

theorem test_withFetchWord_runs_the_command_first :
    view (step (State.reset.withFetchWord 32 0x00110002)) (·.crc) = some 0x4C7F#16 := by decide +kernel

/-! ## One step each: 95_test_vectors.md, the section named -/

/-- 3.3. -/
theorem test_nop_keeps_ovr :
    view (exec .nop { fresh with status := { fresh.status with ovr := true } }) (fun t => statusWord t.status) =
      some 0x00000006#32 := by decide

/-- 3.3: an illegal word reports 0x30. -/
theorem test_illegal_word_reports :
    view (hostWrite 0x00 0x00000200#32 fresh) (fun t => statusWord t.status) = some 0x00300002#32 := by decide

/-- 2.2. -/
theorem test_crcInit : view (exec .crcInit { fresh with crc := 0x1234#16 }) (·.crc) = some 0xFFFF#16 := by decide

/-- 2.2. -/
theorem test_crcUpdate_folds_a_byte : view (exec (.crcUpdate 0x11#8) fresh) (·.crc) = some 0x4C7F#16 := by decide +kernel

/-- 2.2. -/
theorem test_crcUpdate_0xFF : view (exec (.crcUpdate 0xFF#8) fresh) (·.crc) = some 0x00FF#16 := by decide +kernel

/-- 2.2. -/
theorem test_crcSpanTx : view (exec .crcSpanTx (inTx readReqBody)) (·.crc) = some 0x9E06#16 := by decide +kernel

/-- 2.2: a whole frame. -/
theorem test_crcSpanTx_of_a_frame :
    view (exec .crcSpanTx (inTx (readReqBody ++ [0x06#8, 0x9E#8]))) (·.crc) = some 0x0000#16 := by decide +kernel

/-- 2.2. -/
theorem test_crcSpanAcc : view (exec .crcSpanAcc (inAcc [0x11#8, 0x83#8, 0x02#8])) (·.crc) = some 0x34C1#16 := by
  decide +kernel

/-- 3.1. -/
theorem test_classify_read_holding : view (exec (.classify 0x03#8) fresh) (hostRead 0x08) = some 0x00000331#32 := by decide

/-- 3.1. -/
theorem test_classify_exception : view (exec (.classify 0x83#8) fresh) (hostRead 0x08) = some 0x00008304#32 := by decide

/-- 3.2, row 4: the new cells follow the code at the time of the command. -/
theorem test_setCount_pads :
    view (exec (.setCount 3#16) (message 0x00#8 0x01#8 0#16 [.word 7#16] 0#8)) (·.txm.cells) =
      some [.word 7#16, .bit false, .bit false] := by decide

/-- 3.2, row 5. -/
theorem test_setCount_truncates :
    view (exec (.setCount 1#16) (message 0x00#8 0x03#8 0#16 [.word 7#16, .word 8#16] 0#8)) (·.txm.cells) =
      some [.word 7#16] := by decide

/-- 3.2, row 10: tag 0 stores bit 0 of the data. -/
theorem test_value_port_stores_bit_0 :
    view (hostWrite 0x38 0x0000FFFE#32 (message 0x00#8 0x0F#8 0#16 [.bit true] 0#8)) (·.txm.cells) = some [.bit false] := by
  decide

/-- 4.1, E-RQ10. -/
theorem test_encodeReq_packs_coils :
    view (exec .encodeReq (message 0x11#8 0x0F#8 0x0013#16
      [.bit true, .bit false, .bit true, .bit true, .bit false, .bit false, .bit true, .bit true, .bit true, .bit false] 0#8))
      (·.txb.bytes) =
      some [0x11#8, 0x0F#8, 0x00#8, 0x13#8, 0x00#8, 0x0A#8, 0x02#8, 0xCD#8, 0x01#8] := by decide +kernel

/-- 4.1, E-RQ7: no cell encodes OFF. -/
theorem test_encodeReq_single_coil_without_cells :
    view (exec .encodeReq (message 0x11#8 0x05#8 0x00AC#16 [] 0#8)) (·.txb.bytes) =
      some [0x11#8, 0x05#8, 0x00#8, 0xAC#8, 0x00#8, 0x00#8] := by decide +kernel

/-- 4.1, E-RS1: no address. -/
theorem test_encodeRsp_read :
    view (exec .encodeRsp (message 0x11#8 0x03#8 0x0010#16 [.word 0x022B#16, .word 0#16, .word 0x0064#16] 0#8)) (·.txb.bytes) =
      some [0x11#8, 0x03#8, 0x06#8, 0x02#8, 0x2B#8, 0x00#8, 0x00#8, 0x00#8, 0x64#8] := by decide +kernel

/-- 4.1, E-RS6: no values. -/
theorem test_encodeRsp_write_multiple :
    view (exec .encodeRsp (message 0x11#8 0x10#8 0x0001#16 [.word 0x000A#16, .word 0x0102#16] 0#8)) (·.txb.bytes) =
      some [0x11#8, 0x10#8, 0x00#8, 0x01#8, 0x00#8, 0x02#8] := by decide +kernel

/-- 4.1, E-EX1. -/
theorem test_encodeExc : view (exec .encodeExc readReq) (·.txb.bytes) = some [0x11#8, 0x83#8, 0x02#8] := by decide +kernel

/-- 4.2, D-RQ1. -/
theorem test_decodeReq_read :
    view (exec (.decodeReq true) (inAcc (readReqBody ++ [0x06#8, 0x9E#8])))
      (fun t => (t.rx.kind, t.rx.addr, t.rx.count, t.rx.len, t.status.result)) =
      some (some .request, 0x0010#16, 3#16, 8#32, .ok) := by decide +kernel

/-- 4.2, D-RQ3: the trailer swapped. -/
theorem test_decodeReq_checks_the_crc :
    view (exec (.decodeReq true) (inAcc (readReqBody ++ [0x9E#8, 0x06#8]))) (fun t => (t.rx.kind, t.status.result)) =
      some (none, .invalidCrc) := by decide +kernel

/-- 4.2, R-EX2. -/
theorem test_decodeRsp_exception :
    view (exec (.decodeRsp true) (inAcc excFrame)) (fun t => (t.rx.kind, t.rx.fc, t.rx.err, t.rx.len, t.status.result)) =
      some (some .exception, 0x03#8, 0x02#8, 5#32, .exceptionReceived) := by decide +kernel

/-- 4.2, D-RS8: eight cells a byte, padding included. -/
theorem test_decodeRsp_coils :
    view (exec (.decodeRsp false) (inAcc [0x11#8, 0x01#8, 0x01#8, 0x05#8])) (fun t => (t.rx.count, t.rx.cells)) =
      some (8#16, [.bit true, .bit false, .bit true, .bit false, .bit false, .bit false, .bit false, .bit false]) := by
  decide +kernel

/-- 4.4. -/
theorem test_excTest_without_crc : view (exec (.excTest true) (inAcc excFrame)) (·.status.pred) = some true := by decide

/-- 4.4: the body is `11 83`. -/
theorem test_excTest_needs_three_bytes :
    view (exec (.excTest true) (inAcc [0x11#8, 0x83#8, 0x02#8, 0xC1#8])) (·.status.pred) = some false := by decide

/-- 5. -/
theorem test_rtuFrame_appends_low_byte_first :
    view (exec .rtuFrame (inTx readReqBody)) (·.txb.bytes) = some (readReqBody ++ [0x06#8, 0x9E#8]) := by decide +kernel

/-- 5. -/
theorem test_mbapFrame_of_nothing :
    view (exec (.mbapFrame 0x1234#16) fresh) (·.txb.bytes) = some [0x12#8, 0x34#8, 0x00#8, 0x00#8, 0x00#8, 0x00#8] := by
  decide +kernel

/-- 5: a protocol ID that is not 0 and two bytes after the frame. -/
theorem test_mbapDeframeReq_ignores_what_follows :
    view (exec .mbapDeframeReq (inAcc ([0x00#8, 0x07#8, 0x12#8, 0x34#8, 0x00#8, 0x06#8] ++ readReqBody ++ [0xAA#8, 0xBB#8])))
      (fun t => (t.tidRx, t.rx.addr, t.rx.len, t.status.result)) = some (7#16, 0x0010#16, 12#32, .ok) := by decide +kernel

/-- 5. -/
theorem test_mbapDeframeRsp_exception :
    view (exec .mbapDeframeRsp (inAcc (excMbap 0x01#8))) (fun t => (t.tidRx, t.rx.kind, t.rx.len, t.status.result)) =
      some (1#16, some .exception, 9#32, .exceptionReceived) := by decide +kernel

/-- 6. -/
theorem test_openTcp_after_reset : view (exec .openTcp fresh) (fun t => (statusWord t.status, t.tidNext)) =
    some (0x0000001A#32, 1#16) := by decide

/-- 6: open already. -/
theorem test_openRtu_while_open : view (exec .openRtu (opened .tcp fresh)) (fun t => statusWord t.status) =
    some 0x0030001A#32 := by decide

/-- 44_connection.md R211, its example with TRANSPORT RTU and an exchange just started. -/
theorem test_close_aborts_an_exchange :
    view (exec .close (awaiting .rtu .request fresh)) (fun t => (statusWord t.status, closeCount t.env.chanLog)) =
      some (0x00210402#32, 1) := by decide

/-- 6: after reset no channel is told to close. -/
theorem test_close_after_reset : view (exec .close fresh) (fun t => (t.status.result, closeCount t.env.chanLog)) =
    some (.ok, 0) := by decide

/-- 6: the transaction ID wraps and is used up though the write fails. -/
theorem test_sendRequest_failed_write :
    view (exec .sendRequest (written .err (opened .tcp { readReq with tidNext := 0xFFFF#16 })))
      (fun t => (t.tidOut, t.tidNext, t.status.result)) = some (0xFFFF#16, 0x0000#16, .protocolError) := by decide +kernel

/-- 44_connection.md R215's example. -/
theorem test_sendResponse_rtu :
    view (exec .sendResponse (written .ok (opened .rtu
      (message 0x11#8 0x03#8 0#16 [.word 0x022B#16, .word 0#16, .word 0x0064#16] 0#8)))) (·.env.chanLog) =
      some [.write [0x11#8, 0x03#8, 0x06#8, 0x02#8, 0x2B#8, 0x00#8, 0x00#8, 0x00#8, 0x64#8, 0xC8#8, 0xBA#8] .ok] := by
  decide +kernel

/-- 8, P10: the request's ID goes back. -/
theorem test_sendException_tcp :
    view (exec .sendException (written .ok (opened .tcp { readReq with tidRx := 0x002A#16 }))) (fun t => (t.txb.bytes, t.tidNext)) =
      some (excMbap 0x2A#8, 1#16) := by decide +kernel

/-- 8, P3: STATUS after AWAIT_RESPONSE. -/
theorem test_awaitResponse_starts :
    view (exec .awaitResponse (opened .tcp fresh)) (fun t => statusWord t.status) = some 0x00000159#32 := by decide

/-- 6: on a closed connection. -/
theorem test_awaitResponse_closed :
    view (exec .awaitResponse fresh) (fun t => statusWord t.status) = some 0x00210002#32 := by decide

/-- 44_connection.md R219's example. -/
theorem test_awaitRequest_starts :
    view (exec .awaitRequest (opened .rtu fresh)) (fun t => statusWord t.status) = some 0x00000109#32 := by decide

/-- 8, P4: the frame after two bytes of garbage. -/
theorem test_read_step_skips_garbage :
    view (step (answered (.data excFrame) { awaiting .rtu .response (inAcc [0xFF#8, 0x00#8]) with reads := 1#32 }))
      (fun t => (t.status.fsm, t.rx.start, t.rx.len, t.status.result)) =
      some (.decoded, 2#32, 5#32, .exceptionReceived) := by decide +kernel

/-- 8, P5: a wrong transaction ID, whatever the body. -/
theorem test_read_step_checks_the_transaction_id :
    view (step (answered (.data (excMbap 0x02#8)) { awaiting .tcp .response fresh with tidOut := 1#16 }))
      (fun t => (statusWord t.status, t.tidRx, t.rx.kind)) = some (0x0022045A#32, 2#16, none) := by decide +kernel

/-- 8, P8: the read limit. -/
theorem test_read_step_at_the_limit :
    view (step (answered (.data [0x11#8]) (awaiting .rtu .response { fresh with params := { params with readLimit := some 1 } })))
      (fun t => (t.status.result, t.status.lastErr, t.reads)) = some (.timeout, some .malformed, 1#32) := by decide +kernel

/-- 6: ACC keeps its last ACC_CAP bytes. -/
theorem test_read_step_keeps_the_last_bytes :
    view (step (answered (.data (readReqBody ++ [0x06#8, 0x9E#8]))
      (awaiting .rtu .request { inAcc [0xAA#8, 0xBB#8] with params := { params with accCap := some 8 } })))
      (fun t => (t.acc.bytes.length, t.rx.start, t.status.result)) = some (8, 0#32, .ok) := by decide +kernel

/-- 8, P9: a write while busy sets OVR and nothing else. -/
theorem test_write_while_busy_is_dropped :
    view (hostWrite 0x20 5#32 (awaiting .tcp .request fresh)) (fun t => (statusWord t.status, t.txm.sid)) =
      some (0x0000011D#32, 0#8) := by decide

/-! ## Witnesses: for every statement with hypotheses, states and operands that meet all of them together, each clause at a boundary -/

/-- Three bytes that do not decode as an RTU frame in any suffix. -/
def noise : List Byte := [0x11#8, 0x03#8, 0x06#8]

/-- A state in the middle of an exchange, with the channel's answer listed. -/
def waiting : State := answered (.data excFrame) (awaiting .rtu .response fresh)

/-- The same with a read limit of 1. -/
def limited : State := answered (.data noise) (awaiting .rtu .response { fresh with params := { params with readLimit := some 1 } })

/-- A TCP exchange whose channel answers `bs`. -/
def tcpRead (r : Role) (bs : List Byte) : State := answered (.data bs) { awaiting .tcp r fresh with tidOut := 1#16 }

/-- The host writing a command word next. -/
def commanded (w : Word) (s : State) : State := turns [.host (.write 0 w)] s

theorem fresh_inv : BlockInv fresh :=
  ⟨by decide, by decide, by decide, by decide, by decide, by decide, by decide, by decide, rfl⟩

theorem waiting_inv : BlockInv waiting :=
  ⟨by decide, by decide, by decide, by decide, by decide, by decide, by decide, by decide, rfl⟩

theorem limited_inv : BlockInv limited :=
  ⟨by decide, by decide, by decide, by decide, by decide, by decide, by decide, by decide, rfl⟩

theorem witness_EncodeOfDecodeGivesTheWord : decode 0xFFFF000D#32 = .ok (.mbapFrame 0xFFFF#16) := by decide

theorem witness_CommandDecodeSelectsTheRowOrReportsIllegal :
    (⟨"NOP", 0x00000000#32, 0xFFFFFFFF#32, fun _ => .nop⟩ : Row) ∈ opcodeMap ∧ 0x00000000#32 &&& 0xFFFFFFFF#32 = 0x00000000#32 ∧
    (∀ r ∈ opcodeMap, 0x00000017#32 &&& r.mask ≠ r.value) ∧
    (commanded 0x00000017#32 fresh).env.script = .host (.write 0 0x00000017#32) :: [] ∧
    (commanded 0x00000017#32 fresh).status.busy = false ∧
    (0x17#8 ≤ (0x00000017#32).extractLsb' 0 8) ∧ (0x00000200#32).extractLsb' 9 3 ≠ 0#3 ∧ (0x00008000#32).extractLsb' 13 3 ≠ 0#3 ∧
    ((0x00000100#32).getLsbD 8 = true ∧ (0x00000100#32).extractLsb' 0 8 ∉ [0x09#8, 0x0A#8, 0x0B#8]) ∧
    ((0x00001000#32).getLsbD 12 = true ∧ (0x00001000#32).extractLsb' 0 8 ∉ [0x03#8, 0x10#8]) ∧
    ((0x00010001#32).extractLsb' 16 8 ≠ 0#8 ∧ (0x00010001#32).extractLsb' 0 8 ∉ [0x02#8, 0x04#8, 0x05#8, 0x0D#8]) ∧
    ((0x01000002#32).extractLsb' 24 8 ≠ 0#8 ∧ (0x01000002#32).extractLsb' 0 8 ∉ [0x05#8, 0x0D#8]) ∧
    decode 0x00FF0002#32 = .ok (.crcUpdate 0xFF#8) ∧ decode 0xFFFF0005#32 = .ok (.setCount 0xFFFF#16) ∧
    decode 0x00000109#32 = .ok (.decodeReq true) :=
  ⟨List.mem_cons_self, by decide⟩

theorem witness_StepRunsTheDecodedCommand :
    (commanded 0x00000001#32 fresh).env.script = .host (.write 0 0x00000001#32) :: [] ∧ decode 0x00000001#32 = .ok .crcInit ∧
    (commanded 0x00000001#32 fresh).status.busy = false ∧
    (commanded 0x00000011#32 waiting).env.script = .host (.write 0 0x00000011#32) :: [] ∧ decode 0x00000011#32 = .ok .close ∧
    (commanded 0x00000011#32 waiting).status.busy = true ∧ fresh.status.busy = false := by decide

theorem witness_BusyBlockDropsHostWrites :
    waiting.status.busy = true ∧ 0x00000000#32 ≠ 0x00000011#32 ∧
    0x10 ∈ [0x10, 0x20, 0x24, 0x28, 0x30, 0x34, 0x38, 0x3C, 0x40, 0x44, 0x48, 0x4C, 0x50, 0x70] ∧
    (0x00000004#32).getLsbD 2 = true := by decide

/-- The state with the RX cells and RXV_IDX. -/
def received (cells : List Cell) (idx : Half) : State := { fresh with rx := { fresh.rx with cells := cells, idx := idx } }

theorem witness_HostReadsReturnFieldsAndChangeNothing :
    (turns [.host (.read 0x04)] fresh).env.script = .host (.read 0x04) :: [] ∧ 0x04 % 4 = 0 ∧
    (0x54, 2) ∈ [(0x0C, 16), (0x10, 16), (0x14, 16), (0x18, 16), (0x20, 8), (0x24, 8), (0x28, 16), (0x2C, 16), (0x30, 8),
      (0x34, 16), (0x38, 18), (0x44, 8), (0x50, 8), (0x54, 2), (0x58, 8), (0x5C, 8), (0x60, 16), (0x64, 16), (0x68, 16), (0x6C, 8),
      (0x70, 16), (0x74, 18)] ∧
    (received [.bit true] 0#16).rx.cells.length ≤ 65535 ∧ (received [] 0#16).rx.cells.length ≤ (received [] 0#16).rx.idx.toNat ∧
    (received [.bit true] 1#16).rx.cells.length ≤ (received [.bit true] 1#16).rx.idx.toNat ∧
    (received [.bit true] 0#16).rx.cells[(0#16).toNat]? = some (.bit true) ∧
    (received [.word 1#16] 0#16).rx.cells[(0#16).toNat]? = some (.word 1#16) ∧
    (received [.raw 1#16] 0#16).rx.cells[(0#16).toNat]? = some (.raw 1#16) := by decide

theorem witness_ReservedOffsetsReadZeroAndIgnoreWrites :
    (∀ k < 32, 0x80 ≠ 4 * k) ∧ (∀ k < 32, 0xFC ≠ 4 * k) ∧ (∀ k < 32, 0x7D ≠ 4 * k) := by decide

theorem witness_RegisterWritesTakeTheirFieldBits :
    fresh.status.busy = false ∧ 0x7C ∈ [0x08, 0x0C, 0x14, 0x18, 0x1C, 0x2C, 0x54, 0x58, 0x5C, 0x60, 0x64, 0x68, 0x6C, 0x74,
      0x78, 0x7C] ∧ (∀ k < 32, 0x80 ≠ 4 * k) ∧ decode 0x00000010#32 = .ok .openRtu ∧ decode 0x00000017#32 = .error .reservedOp ∧
    (0x04 ≠ 0x00 ∧ hostWrite 0x04 0x00000010#32 fresh = .next fresh) ∧
    (waiting.status.busy = true ∧ 0x0C ≠ 0x00 ∧ hostWrite 0x0C 0#32 waiting = .next waiting) :=
  ⟨by decide, by decide, by decide, by decide, by decide, ⟨by decide, rfl⟩, by decide, by decide, rfl⟩

/-- The index at the last byte and just past it, in each buffer. -/
theorem witness_BufferPortsReadAndWriteOneByte :
    fresh.status.busy = false ∧
    ({ inTx noise with txb := { bytes := noise, idx := 2#32 } } : State).txb.idx.toNat < noise.length ∧
    noise.length ≤ ({ inTx noise with txb := { bytes := noise, idx := 3#32 } } : State).txb.idx.toNat ∧
    ({ inAcc noise with acc := { bytes := noise, idx := 2#32 } } : State).acc.idx.toNat < noise.length ∧
    noise.length ≤ ({ inAcc noise with acc := { bytes := noise, idx := 3#32 } } : State).acc.idx.toNat := by decide

theorem witness_LengthWritesResizeTheBuffer :
    fresh.status.busy = false ∧
    (9 = match fresh.params.accCap with
      | none => (9#32).toNat
      | some c => min c (9#32).toNat) ∧
    (8 = match ({ fresh with params := { params with accCap := some 8 } } : State).params.accCap with
      | none => (9#32).toNat
      | some c => min c (9#32).toNat) ∧
    (inTx noise).txb.bytes.length < 2 ^ 32 ∧ (inAcc noise).acc.bytes.length < 2 ^ 32 := by decide

theorem witness_ValuePortReadsAndWritesOneCell :
    (message 0#8 0#8 0#16 [.bit true] 0#8).txm.cells.length ≤ 65535 ∧ fresh.txm.cells.length ≤ fresh.txm.idx.toNat ∧
    (message 0#8 0#8 0#16 [.bit true] 0#8).txm.cells[(0#16).toNat]? = some (.bit true) ∧
    (message 0#8 0#8 0#16 [.word 1#16] 0#8).txm.cells[(0#16).toNat]? = some (.word 1#16) ∧
    (message 0#8 0#8 0#16 [.raw 1#16] 0#8).txm.cells[(0#16).toNat]? = some (.raw 1#16) ∧
    (message 0#8 0#8 0#16 [.bit true] 0#8).txm.idx.toNat < (message 0#8 0#8 0#16 [.bit true] 0#8).txm.cells.length ∧
    (0x00000001#32).extractLsb' 16 2 = 0#2 ∧ (0x00010001#32).extractLsb' 16 2 = 1#2 ∧ (0x00020001#32).extractLsb' 16 2 = 2#2 ∧
    (0x00030001#32).extractLsb' 16 2 = 3#2 := by decide

theorem witness_AccessOutsideTheInterfaceIsStuck :
    (turns [.host (.subword 8 0)] fresh).env.script = .host (.subword 8 0) :: [] ∧
    (turns [.host (.read 0x05)] fresh).env.script = .host (.read 0x05) :: [] ∧ 0x05 % 4 ≠ 0 ∧
    (turns [.host (.write 0x06 0#32)] fresh).env.script = .host (.write 0x06 0#32) :: [] ∧ 0x06 % 4 ≠ 0 ∧
    engineEnabled fresh.status = false ∧ engineEnabled waiting.status = true := by decide

theorem witness_ResetLeavesTheStatedValues : 0x04 ≠ 0x0C ∧ 0x04 ≠ 0x10 ∧ 0x04 ≠ 0x54 := by decide

theorem witness_ResetRestoresEveryElementInOneStep : (turns [.reset] waiting).env.script = .reset :: [] := by decide

theorem witness_InvariantHoldsAfterReset : ({ params with readLimit := some 1, accCap := some 8 } : Params).wf = true := by decide

theorem witness_EveryStepKeepsTheInvariant : BlockInv waiting ∧ ∃ t, step waiting = .next t :=
  ⟨waiting_inv, _, rfl⟩

theorem witness_StepsInsideTheInterfaceNeverStop :
    (turns [.host (.write 0 0x00000011#32), .engine, .reset] waiting).env.inContract = true := by decide

theorem witness_ParametersNeverChange : ∃ t, step (commanded 0x00001010#32 fresh) = .next t := ⟨_, rfl⟩

theorem witness_OneFlippedBitFailsTheCheck :
    0 < 8 * (([] : List Byte).length + 2) ∧ 8 * (noise.length + 2) - 1 < 8 * (noise.length + 2) := by decide

/-- Every code of the table, the least and the greatest code with bit 7, and the codes next to the table. -/
theorem witness_NopAndClassifyReport :
    (∃ t, exec (.classify 0x01#8) fresh = .next t) ∧ (0x80#8).getLsbD 7 = true ∧ (0xFF#8).getLsbD 7 = true ∧
    (0x00#8).getLsbD 7 = false ∧ 0x00#8 ∉ [0x01#8, 0x02#8, 0x03#8, 0x04#8, 0x05#8, 0x06#8, 0x08#8, 0x0F#8, 0x10#8] ∧
    (0x7F#8).getLsbD 7 = false ∧ 0x7F#8 ∉ [0x01#8, 0x02#8, 0x03#8, 0x04#8, 0x05#8, 0x06#8, 0x08#8, 0x0F#8, 0x10#8] :=
  ⟨⟨_, rfl⟩, by decide⟩

/-- A message of each code class the layouts name. -/
theorem witness_RequestBodiesHaveTheirLayout :
    (message 0#8 0x04#8 0#16 [] 0#8).txm.fc ∈ [0x01#8, 0x02#8, 0x03#8, 0x04#8] ∧ (message 0#8 0x05#8 0#16 [] 0#8).txm.fc = 0x05#8 ∧
    (message 0#8 0x06#8 0#16 [] 0#8).txm.fc = 0x06#8 ∧ (message 0#8 0x0F#8 0#16 [] 0#8).txm.fc = 0x0F#8 ∧
    (message 0#8 0x10#8 0#16 [] 0#8).txm.fc = 0x10#8 ∧
    (message 0#8 0x08#8 0#16 [] 0#8).txm.fc ∉ [0x01#8, 0x02#8, 0x03#8, 0x04#8, 0x05#8, 0x06#8, 0x0F#8, 0x10#8] := by decide

theorem witness_ResponseBodiesHaveTheirLayout :
    0x02#8 ∈ [0x01#8, 0x02#8] ∧ 0x03#8 ∈ [0x03#8, 0x04#8] ∧ 0x06#8 ∈ [0x05#8, 0x06#8] ∧ 0x0F#8 ∈ [0x0F#8, 0x10#8] ∧
    0x83#8 ∉ [0x01#8, 0x02#8, 0x03#8, 0x04#8, 0x05#8, 0x06#8, 0x0F#8, 0x10#8] := by decide

theorem witness_PackedBitsUnpackInOrder : 1 < (pack (List.replicate 9 true)).length ∧ 7 < 8 := by decide

/-- A message of each kind, and each of the three errors. -/
theorem witness_DecodeCommandsCommitOrReport :
    decodeFrame (inAcc readReqBody).acc.bytes false .request =
      .ok { kind := .request, sid := 0x11#8, fc := 0x03#8, addr := 0x0010#16, count := 3#16 } ∧
    decodeFrame (inAcc excFrame).acc.bytes true .response =
      .ok { kind := .exception, sid := 0x11#8, fc := 0x03#8, err := 0x02#8 } ∧
    decodeFrame (inAcc [0x00#8, 0x00#8]).acc.bytes true .response = .error .invalidCrc ∧
    decodeFrame (inAcc []).acc.bytes true .request = .error .malformed ∧
    decodeFrame (inAcc [0x11#8, 0x07#8]).acc.bytes false .request = .error .unknownFunction :=
  ⟨by decide +kernel, by decide +kernel, by decide +kernel, by decide +kernel, by decide +kernel⟩

theorem witness_ExceptionTestSetsPred :
    (3 = if true then (inAcc excFrame).acc.bytes.length - 2 else (inAcc excFrame).acc.bytes.length) ∧
    (0 = if true then (inAcc [0x11#8]).acc.bytes.length - 2 else (inAcc [0x11#8]).acc.bytes.length) ∧
    (5 = if false then (inAcc excFrame).acc.bytes.length - 2 else (inAcc excFrame).acc.bytes.length) := by decide

/-- A buffer for each clause; the first six at the smallest length. -/
theorem witness_DecodeErrorsFollowThePriority :
    [0x11#8].length < 2 ∧
    (2 ≤ [0x00#8, 0x00#8].length ∧ crc16 ([0x00#8, 0x00#8].take 0) ≠ rdLe16 [0x00#8, 0x00#8] 0) ∧
    (2 ≤ [0xFF#8, 0xFF#8].length ∧ crc16 ([0xFF#8, 0xFF#8].take 0) = rdLe16 [0xFF#8, 0xFF#8] 0) ∧
    (3 ≤ [0x11#8, 0x80#8, 0x02#8].length ∧ (byteAt [0x11#8, 0x80#8, 0x02#8] 1).getLsbD 7 = true ∧ Role.response = .response) ∧
    (2 ≤ [0x11#8, 0x83#8].length ∧
      ¬ (3 ≤ [0x11#8, 0x83#8].length ∧ (byteAt [0x11#8, 0x83#8] 1).getLsbD 7 = true ∧ Role.response = .response) ∧
      byteAt [0x11#8, 0x83#8] 1 ∉ [0x01#8, 0x02#8, 0x03#8, 0x04#8, 0x05#8, 0x06#8, 0x08#8, 0x0F#8, 0x10#8]) ∧
    (2 ≤ [0x11#8, 0x10#8].length ∧
      byteAt [0x11#8, 0x10#8] 1 ∈ [0x01#8, 0x02#8, 0x03#8, 0x04#8, 0x05#8, 0x06#8, 0x08#8, 0x0F#8, 0x10#8]) := by decide

/-- A body of each recognised code; of each condition, bodies that meet it and, for the byte counts and the coil value, one that does
not. -/
theorem witness_RecognisedBodiesDecodeExactlyWhereTheirFieldsFit :
    (byteAt readReqBody 1 ∈ [0x01#8, 0x02#8, 0x03#8, 0x04#8] ∧ readReqBody.length = 6) ∧
    (byteAt [0x11#8, 0x01#8, 0x00#8] 1 ∈ [0x01#8, 0x02#8] ∧
      [0x11#8, 0x01#8, 0x00#8].length = 3 + (byteAt [0x11#8, 0x01#8, 0x00#8] 2).toNat) ∧
    (byteAt [0x11#8, 0x04#8, 0x01#8, 0x00#8] 1 ∈ [0x03#8, 0x04#8] ∧ (byteAt [0x11#8, 0x04#8, 0x01#8, 0x00#8] 2).toNat % 2 ≠ 0) ∧
    (byteAt [0x11#8, 0x05#8, 0x00#8, 0x01#8, 0xFF#8, 0x00#8] 1 = 0x05#8 ∧
      byteAt [0x11#8, 0x05#8, 0x00#8, 0x01#8, 0xFF#8, 0x01#8] 5 ≠ 0x00#8) ∧
    byteAt [0x11#8, 0x06#8, 0x00#8, 0x01#8, 0x00#8, 0x01#8] 1 = 0x06#8 ∧
    (byteAt [0x11#8, 0x0F#8, 0x00#8, 0x00#8, 0x00#8, 0x09#8, 0x02#8, 0xFF#8, 0x01#8] 1 = 0x0F#8 ∧
      (byteAt [0x11#8, 0x0F#8, 0x00#8, 0x00#8, 0x00#8, 0x09#8, 0x02#8, 0xFF#8, 0x01#8] 6).toNat = (9 + 7) / 8) ∧
    (byteAt [0x11#8, 0x10#8, 0x00#8, 0x00#8, 0x00#8, 0x00#8, 0x00#8] 1 = 0x10#8 ∧
      byteAt [0x11#8, 0x10#8, 0x00#8, 0x00#8, 0x00#8, 0x00#8, 0x00#8] 1 ∈ [0x0F#8, 0x10#8]) ∧
    (byteAt [0x11#8, 0x08#8, 0x00#8, 0x00#8] 1 = 0x08#8 ∧ 4 ≤ [0x11#8, 0x08#8, 0x00#8, 0x00#8].length) := by decide

theorem witness_ExceptionRepliesAreRecognisedFirst :
    (0x80#8).getLsbD 7 = true ∧ 0x0B#8 ∈ [0x01#8, 0x02#8, 0x03#8, 0x04#8, 0x05#8, 0x06#8, 0x08#8, 0x0A#8, 0x0B#8] ∧
    0x07#8 ∉ [0x01#8, 0x02#8, 0x03#8, 0x04#8, 0x05#8, 0x06#8, 0x08#8, 0x0A#8, 0x0B#8] ∧
    [0x11#8, 0x83#8, 0x02#8, 0x00#8].length ≠ 3 ∧
    (3 ≤ [0x11#8, 0x83#8, 0x02#8].length ∧ (byteAt [0x11#8, 0x83#8, 0x02#8] 1).getLsbD 7 = true) ∧
    decodeBody [0x11#8, 0x08#8, 0x00#8, 0x00#8] .request = .ok { kind := .request, sid := 0x11#8, fc := 0x08#8 } := by
  decide +kernel

/-- The TX record whose count is its number of cells. -/
def record (fc : Byte) (cells : List Cell) (err : Byte) : TxRecord :=
  ⟨0x11#8, fc, 0#16, BitVec.ofNat 16 cells.length, cells, err⟩

theorem record_count (fc : Byte) (cells : List Cell) (err : Byte) :
    (record fc cells err).count = BitVec.ofNat 16 (record fc cells err).values.length := rfl

/-- A message of each clause, the long ones at the bound and one beyond it. -/
theorem witness_RequestsDecodeToTheirMessage :
    ((record 0x01#8 [] 0#8).values.length < 65536 ∧ (record 0x01#8 [] 0#8).fc ∈ [0x01#8, 0x02#8, 0x03#8, 0x04#8]) ∧
    ((record 0x05#8 [.bit true] 0#8).fc = 0x05#8 ∧ (record 0x05#8 [.bit true] 0#8).values = [.bit true]) ∧
    ((record 0x06#8 [.word 7#16] 0#8).fc = 0x06#8 ∧ (record 0x06#8 [.word 7#16] 0#8).values = [.word 7#16]) ∧
    ((record 0x0F#8 ((List.replicate 2040 true).map .bit) 0#8).values = (List.replicate 2040 true).map .bit ∧
      (List.replicate 2040 true).length ≤ 2040) ∧
    ((record 0x10#8 ((List.replicate 127 9#16).map .word) 0#8).values = (List.replicate 127 9#16).map .word ∧
      (List.replicate 127 9#16).length ≤ 127) ∧
    ((record 0x0F#8 (List.replicate 2041 (.bit true)) 0#8).fc = 0x0F#8 ∧
      2040 < (record 0x0F#8 (List.replicate 2041 (.bit true)) 0#8).values.length) ∧
    ((record 0x10#8 (List.replicate 128 (.word 9#16)) 0#8).fc = 0x10#8 ∧
      127 < (record 0x10#8 (List.replicate 128 (.word 9#16)) 0#8).values.length) ∧
    ((record 0x08#8 [.raw 7#16] 0#8).fc = 0x08#8 ∧ (record 0x08#8 [.raw 7#16] 0#8).values = [7#16].map .raw) := by
  simp [record, -List.reduceReplicate]

theorem witness_ResponsesDecodeToTheirMessage :
    ((record 0x02#8 ((List.replicate 2040 true).map .bit) 0#8).values.length < 65536 ∧ (List.replicate 2040 true).length % 8 = 0 ∧
      (record 0x02#8 ((List.replicate 2040 true).map .bit) 0#8).addr = 0#16 ∧
      (record 0x02#8 ((List.replicate 2040 true).map .bit) 0#8).fc ∈ [0x01#8, 0x02#8]) ∧
    ((record 0x03#8 ((List.replicate 127 9#16).map .word) 0#8).fc ∈ [0x03#8, 0x04#8] ∧ (List.replicate 127 9#16).length ≤ 127) ∧
    ((record 0x05#8 [.bit false] 0#8).fc = 0x05#8 ∧ (record 0x06#8 [.word 7#16] 0#8).fc = 0x06#8) ∧
    (record 0x10#8 [.word 7#16] 0#8).fc ∈ [0x0F#8, 0x10#8] ∧
    ((record 0x08#8 [.raw 7#16] 0#8).fc = 0x08#8 ∧ (record 0x08#8 [.raw 7#16] 0#8).values = [7#16].map .raw) ∧
    (record 0x03#8 [] 0x0B#8).err ∈ [0x01#8, 0x02#8, 0x03#8, 0x04#8, 0x05#8, 0x06#8, 0x08#8, 0x0A#8, 0x0B#8] := by
  simp [record, -List.reduceReplicate]

theorem witness_EncodedSizesAreBounded :
    (record 0x10#8 (List.replicate 65535 (.word 9#16)) 0#8).values.length ≤ 65535 ∧
    encodeReqBody (record 0x10#8 (List.replicate 65535 (.word 9#16)) 0#8) ∈
      [encodeReqBody (record 0x10#8 (List.replicate 65535 (.word 9#16)) 0#8)] := by
  simp [record, -List.reduceReplicate]

/-- Five bytes, then six with length 0, 1 and 2 and a body, one too short, one that decodes and one that does not. -/
theorem witness_MbapDeframeCommandsCommitOrReport :
    (inAcc (List.replicate 5 0#8)).acc.bytes.length < 6 ∧
    (6 ≤ (inAcc (List.replicate 6 0#8)).acc.bytes.length ∧ (rdBe16 (List.replicate 6 0#8) 4).toNat < 2) ∧
    (excMbap 1#8).dropLast.length < 6 + (rdBe16 (excMbap 1#8).dropLast 4).toNat ∧
    (2 ≤ (rdBe16 (excMbap 1#8) 4).toNat ∧ 6 + (rdBe16 (excMbap 1#8) 4).toNat ≤ (excMbap 1#8).length ∧
      decodeBody (((excMbap 1#8).drop 6).take (rdBe16 (excMbap 1#8) 4).toNat) .response =
        .ok { kind := .exception, sid := 0x11#8, fc := 0x03#8, err := 0x02#8 } ∧
      decodeBody (((excMbap 1#8).drop 6).take (rdBe16 (excMbap 1#8) 4).toNat) .request = .error .unknownFunction) :=
  ⟨by decide, by decide, by decide, by decide, by decide, rfl, rfl⟩

theorem witness_MbapFramesParseBack :
    (2 ≤ [0x11#8, 0x07#8].length ∧ [0x11#8, 0x07#8].length ≤ 65535) ∧
    (2 ≤ (List.replicate 65535 0#8).length ∧ (List.replicate 65535 0#8).length ≤ 65535) := by
  simp [-List.reduceReplicate]

theorem witness_OpenStartsALifetime : fresh.status.isOpen = false ∧ (opened .tcp fresh).status.isOpen = true := by decide

theorem witness_ChannelIsToldToCloseOncePerLifetime : ∃ t, step (commanded 0x00000011#32 waiting) = .next t := ⟨_, rfl⟩

theorem witness_SendCommandsWriteOneFrame :
    ((opened .rtu fresh).status.isOpen = true ∧ (opened .rtu fresh).status.transport = .rtu) ∧
    ((opened .tcp fresh).status.isOpen = true ∧ (opened .tcp fresh).status.transport = .tcp) ∧ fresh.status.isOpen = false := by
  decide

theorem witness_TransactionIdsCountUp : fresh.status.isOpen = false ∧ 0 < 65537 := by decide

theorem witness_AwaitStartsAnExchange : (opened .rtu fresh).status.isOpen = true ∧ fresh.status.isOpen = false := by decide

theorem witness_EngineStepsExactlyWhileWaiting :
    (waiting.status.busy = true ∧ waiting.status.fsm = .awaitingFrame ∧ waiting.env.script = []) ∧
    (turns [.engine] waiting).env.script = .engine :: [] ∧
    (¬ (fresh.status.busy = true ∧ (fresh.status.fsm = .awaitingFrame ∨ fresh.status.fsm = .retrying)) ∧ fresh.env.script = []) := by
  decide

theorem witness_ChannelFailuresEndTheExchange :
    readAnswer (answered .closed waiting) = .closed ∧ readAnswer (answered .timedOut waiting) = .timedOut ∧
    (readAnswer (answered .ioError waiting) = .ioError ∧ waiting.status.transport = .rtu) ∧
    (readAnswer (answered .ioError (tcpRead .request [])) = .ioError ∧ (tcpRead .request []).status.transport = .tcp) := by decide

/-- The frame at offset 0; and bytes of which no suffix decodes. -/
theorem witness_RtuReadAcceptsTheFirstSuffixThatDecodes :
    (readAnswer waiting = .data excFrame ∧ (readAnswer waiting).wf = true ∧ waiting.status.transport = .rtu ∧
      0 < (waiting.afterData excFrame).acc.bytes.length ∧
      decodeFrame ((waiting.afterData excFrame).acc.bytes.drop 0) true waiting.status.role =
        .ok { kind := .exception, sid := 0x11#8, fc := 0x03#8, err := 0x02#8 }) ∧
    (readAnswer limited = .data noise ∧ (readAnswer limited).wf = true ∧ limited.status.transport = .rtu ∧
      (∀ k < (limited.afterData noise).acc.bytes.length, ∀ m,
        decodeFrame ((limited.afterData noise).acc.bytes.drop k) true limited.status.role ≠ .ok m) ∧
      decodeFrame (limited.afterData noise).acc.bytes true limited.status.role = .error .invalidCrc) := by
  refine ⟨by decide +kernel, by decide, by decide, by decide, ?_, by decide +kernel⟩
  intro k hk m
  match k, hk with
  | 0, _ => intro h; cases h
  | 1, _ => intro h; cases h
  | 2, _ => intro h; cases h
  | n + 3, h => exact absurd h (by simp [limited, answered, awaiting, opened, fresh, State.resetWith, Buf.reset, State.afterData, params, noise])

theorem witness_WrongTransactionIdEndsTheExchange :
    readAnswer (tcpRead .response (excMbap 2#8)) = .data (excMbap 2#8) ∧ (readAnswer (tcpRead .response (excMbap 2#8))).wf = true ∧
    (tcpRead .response (excMbap 2#8)).status.transport = .tcp ∧ (tcpRead .response (excMbap 2#8)).status.role = .response ∧
    6 ≤ ((tcpRead .response (excMbap 2#8)).afterData (excMbap 2#8)).acc.bytes.length ∧
    rdBe16 ((tcpRead .response (excMbap 2#8)).afterData (excMbap 2#8)).acc.bytes 0 ≠ (tcpRead .response (excMbap 2#8)).tidOut := by
  decide +kernel

/-- Five bytes; the header alone, with length 0; a body one byte short; a body that decodes; and one that does not. -/
theorem witness_TcpReadAcceptsTheDeclaredBody :
    (readAnswer (tcpRead .response [0#8]) = .data [0#8] ∧ (readAnswer (tcpRead .response [0#8])).wf = true ∧
      (tcpRead .response [0#8]).status.transport = .tcp ∧
      ((tcpRead .response []).afterData (List.replicate 5 0#8)).acc.bytes.length < 6) ∧
    (6 ≤ ((tcpRead .request []).afterData (List.replicate 6 0#8)).acc.bytes.length ∧ (tcpRead .request []).status.role = .request ∧
      (rdBe16 ((tcpRead .request []).afterData (List.replicate 6 0#8)).acc.bytes 4).toNat < 2) ∧
    ((excMbap 1#8).dropLast.length < 6 + (rdBe16 (excMbap 1#8).dropLast 4).toNat ∧
      rdBe16 (excMbap 1#8) 0 = (tcpRead .response []).tidOut) ∧
    (2 ≤ (rdBe16 (excMbap 1#8) 4).toNat ∧ 6 + (rdBe16 (excMbap 1#8) 4).toNat ≤ (excMbap 1#8).length) ∧
    decodeBody (((excMbap 1#8).drop 6).take 3) .response =
      .ok { kind := .exception, sid := 0x11#8, fc := 0x03#8, err := 0x02#8 } ∧
    decodeBody (((excMbap 1#8).drop 6).take 3) .request = .error .unknownFunction :=
  ⟨by decide +kernel, by decide +kernel, by decide +kernel, by decide +kernel, rfl, rfl⟩

theorem witness_FsmFollowsItsTransitions :
    BlockInv waiting ∧ ∃ t, step waiting = .next t ∧ t.status.fsm ≠ waiting.status.fsm :=
  ⟨waiting_inv, _, rfl, by decide +kernel⟩

theorem witness_ExchangesEndAtTheReadLimit :
    BlockInv limited ∧ limited.status.busy = true ∧ limited.params.readLimit = some 1 ∧ 1 < 2 ^ 32 ∧ limited.env.script = [] ∧
    limited.env.readAnswers.all (·.wf) = true :=
  ⟨limited_inv, by decide, by decide, by decide, by decide, by decide⟩

/-- A step that leaves the RX registers, a decode command and a read step that write them, and a reset. -/
theorem witness_RxRegistersAreWrittenTogetherByADecode :
    (∃ t, step (commanded 0x0000000A#32 (inAcc noise)) = .next t) ∧
    view (step (commanded 0x0000010A#32 (inAcc excFrame))) (fun t => (t.rx.kind, t.rx.start, t.rx.len)) =
      some (some .exception, 0#32, 5#32) ∧
    view (step waiting) (fun t => (t.rx.kind, t.rx.start, t.rx.len)) = some (some .exception, 0#32, 5#32) ∧
    (turns [.reset] waiting).resetNext :=
  ⟨⟨_, rfl⟩, by decide +kernel, by decide +kernel, [], rfl⟩

/-- A step that changes the register, one for each clause. -/
theorem witness_OnlyTheirCommandsWriteTheRegisters :
    (¬ (commanded 0x00110002#32 fresh).resetNext) ∧
    view (step (commanded 0x00110002#32 fresh)) (fun t => decide (t.crc ≠ fresh.crc)) = some true ∧
    view (step (commanded 0x00030004#32 fresh)) (fun t => decide (t.cls ≠ fresh.cls)) = some true ∧
    view (step (commanded 0x00001010#32 fresh)) (fun t => decide (t.status.transport ≠ fresh.status.transport)) = some true ∧
    view (step (commanded 0x00000010#32 fresh)) (fun t => decide (t.status.isOpen ≠ fresh.status.isOpen)) = some true ∧
    view (step (commanded 0x0000000B#32 (inAcc excFrame))) (fun t => decide (t.status.pred ≠ fresh.status.pred)) = some true ∧
    view (step (commanded 0x00000015#32 (opened .rtu fresh))) (fun t => decide (t.status.role ≠ fresh.status.role)) = some true ∧
    view (step (commanded 0x00010005#32 fresh)) (fun t => decide (t.txm.cells.length ≠ fresh.txm.cells.length)) = some true :=
  ⟨by simp [State.resetNext, commanded, turns], by decide +kernel⟩

/-- A step that changes the register, one for each clause. -/
theorem witness_IdsReadsAndLastErrChangeOnlyByTheirRules :
    (¬ (commanded 0x00000012#32 fresh).resetNext) ∧
    view (step (commanded 0x00000012#32 (opened .tcp { fresh with tidNext := 7#16, env := { fresh.env with writeAnswers := [.ok] } }))) (fun t => (t.tidOut, t.tidNext)) =
      some (7#16, 8#16) ∧
    view (step (commanded 0x0000000F#32 (inAcc (excMbap 2#8)))) (fun t => t.tidRx) = some 2#16 ∧
    view (step waiting) (fun t => t.reads) = some 1#32 ∧
    view (step limited) (fun t => t.status.lastErr) = some (some .invalidCrc) :=
  ⟨by simp [State.resetNext, commanded, turns], by decide +kernel⟩

theorem witness_CommandsOtherThanAwaitFinishAtOnce :
    (Instr.nop ≠ .awaitResponse ∧ Instr.nop ≠ .awaitRequest) ∧ fresh.status.isOpen = false := by decide

end Sys2Proof.Tests
end

section
/-! PROOFS. What a step can do, said once with everything the whole-machine statements ask of it: `Effect` for a command, `ReadOutcome`
for a read step, `Move` for a step. Each constructor writes out the next state, so that what it leaves unchanged holds by `rfl`. -/

namespace Sys2Proof.Machine

/-! ### Frames that a decode finds in ACC -/

/-- The message is the one of the complete MBAP frame at the start of the bytes (43_framing.md R195). -/
def MbapFrameIn (acc : List Byte) (role : Role) (m : Msg) (start len : Nat) : Prop :=
  start = 0 ∧ len = 6 + (rdBe16 acc 4).toNat ∧ 8 ≤ len ∧ len ≤ acc.length ∧ decodeBody ((acc.take len).drop 6) role = .ok m

/-- The message is the one of the suffix from `start` on, its CRC verified (44_connection.md R228). -/
def RtuFrameIn (acc : List Byte) (role : Role) (m : Msg) (start len : Nat) : Prop :=
  len ≠ 0 ∧ start + len = acc.length ∧ decodeFrame (acc.drop start) true role = .ok m

/-- The message is one that the synchroniser of the transport finds (44_connection.md R227). -/
def FrameIn (tr : Transport) (acc : List Byte) (role : Role) (m : Msg) (start len : Nat) : Prop :=
  match tr with
  | .rtu => RtuFrameIn acc role m start len
  | .tcp => MbapFrameIn acc role m start len

/-- The message that a decode command commits, with its place in ACC (42_codec.md R168, R169, 43_framing.md R196, R197). -/
inductive DecodedBy (acc : List Byte) : Instr → Msg → Nat → Nat → Prop
  | request {v m} : decodeFrame acc v .request = .ok m → DecodedBy acc (.decodeReq v) m 0 acc.length
  | response {v m} : decodeFrame acc v .response = .ok m → DecodedBy acc (.decodeRsp v) m 0 acc.length
  | mbapRequest {m start len} : MbapFrameIn acc .request m start len → DecodedBy acc .mbapDeframeReq m start len
  | mbapResponse {m start len} : MbapFrameIn acc .response m start len → DecodedBy acc .mbapDeframeRsp m start len

theorem FrameIn.sound {tr : Transport} {acc : List Byte} {role : Role} {m : Msg} {start len : Nat}
    (h : FrameIn tr acc role m start len) : m.sound := by
  cases tr with
  | rtu => obtain ⟨-, -, hd⟩ := h; exact decodeFrame_sound hd
  | tcp => obtain ⟨-, -, -, -, hd⟩ := h; exact decodeBody_sound hd

theorem DecodedBy.sound {acc : List Byte} {i : Instr} {m : Msg} {start len : Nat} (h : DecodedBy acc i m start len) : m.sound := by
  cases h with
  | request hd => exact decodeFrame_sound hd
  | response hd => exact decodeFrame_sound hd
  | mbapRequest hf => exact FrameIn.sound (tr := .tcp) hf
  | mbapResponse hf => exact FrameIn.sound (tr := .tcp) hf

/-- The MBAP deframer answers a header only when it is complete, with its transaction ID. -/
theorem mbapParse_header {buf : List Byte} {role : Role} {tid : Half} {r : Except DecodeErr Msg} {n : Nat}
    (h : mbapParse buf role = .header tid r n) : 6 ≤ buf.length ∧ tid = rdBe16 buf 0 := by
  unfold mbapParse at h
  split at h
  · cases h
  · rename_i hlen
    refine ⟨by omega, ?_⟩
    split at h
    · cases h; rfl
    split at h <;> (cases h; rfl)

theorem mbapParse_frame {buf : List Byte} {role : Role} {tid : Half} {m : Msg} {n : Nat}
    (h : mbapParse buf role = .header tid (.ok m) n) : MbapFrameIn buf role m 0 n := by
  unfold mbapParse at h
  split at h
  · cases h
  split at h
  · simp at h
  split at h
  · simp at h
  · rename_i hshort hfits
    simp only [MbapResult.header.injEq] at h
    obtain ⟨-, hd, rfl⟩ := h
    have hbody : (buf.take (6 + mbapLength buf)).drop 6 = (buf.drop 6).take (mbapLength buf) := by
      rw [List.drop_take, Nat.add_sub_cancel_left]
    exact ⟨rfl, rfl, by omega, by omega, hbody ▸ hd⟩

/-- The suffix scan finds a suffix of the bytes whose CRC checks and whose body decodes. -/
theorem rtuScan_found {role : Role} {m : Msg} {start len : Nat} {bs : List Byte} {k : Nat}
    (h : rtuScan role k bs = some (m, start, len)) :
    ∃ j < bs.length, start = k + j ∧ len = bs.length - j ∧ decodeFrame (bs.drop j) true role = .ok m := by
  induction bs generalizing k with
  | nil => cases h
  | cons b bs ih =>
    simp only [rtuScan] at h
    split at h
    · rename_i m' hd
      simp only [Option.some.injEq, Prod.mk.injEq] at h
      obtain ⟨rfl, rfl, rfl⟩ := h
      exact ⟨0, by simp, rfl, rfl, hd⟩
    · obtain ⟨j, hj, hs, hl, hd⟩ := ih h
      exact ⟨j + 1, by simpa using hj, by omega, by simpa using hl, hd⟩

theorem rtuSync_found {acc : List Byte} {role : Role} {m : Msg} {start len : Nat} (h : rtuSync acc role = .found m start len) :
    RtuFrameIn acc role m start len := by
  unfold rtuSync at h
  split at h
  · rename_i hs
    cases h
    obtain ⟨j, hj, rfl, rfl, hd⟩ := rtuScan_found hs
    exact ⟨by omega, by omega, by simpa using hd⟩
  · cases h

/-! ### What a command does -/

/-- The value of TID_RX after a step on the state: the old one or, where the step deframes, the transaction ID of the complete MBAP
header in ACC (10_state.md R38). -/
def State.TakesTid (s : State) (deframes : Prop) (tid : Half) : Prop :=
  tid = s.tidRx ∨ (deframes ∧ 6 ≤ s.acc.bytes.length ∧ tid = rdBe16 s.acc.bytes 0)

/-- The commands that write CRC (10_state.md R35). -/
def WritesCrc (i : Instr) : Prop := i = .crcInit ∨ (∃ b, i = .crcUpdate b) ∨ i = .crcSpanTx ∨ i = .crcSpanAcc

/-- The commands that read an MBAP header in ACC (43_framing.md R196, R197). -/
def Deframes (i : Instr) : Prop := i = .mbapDeframeReq ∨ i = .mbapDeframeRsp

/-- SEND_REQUEST as the one command that takes a transaction ID: on an open TCP connection (44_connection.md R214). -/
def TakesNextTid (s : State) (i : Instr) : Prop := i = .sendRequest ∧ s.status.isOpen = true ∧ s.status.transport = .tcp

/-- What a command other than CLOSE does to the state. -/
inductive Effect (s : State) : Instr → State → Prop
  /-- Nothing but the report; a failed deframe may have read a header. -/
  | report {i} (code : ResultCode) {tid : Half} : s.TakesTid (Deframes i) tid → Effect s i (finish code { s with tidRx := tid })
  | crc {i} (c : Half) : WritesCrc i → Effect s i (finish .ok { s with crc := c })
  | classify (b : Byte) (c : ClassReg) : Effect s (.classify b) (finish .ok { s with cls := c })
  | setCount (n : Half) (cells : List Cell) : Effect s (.setCount n) (finish .ok { s with txm := { s.txm with cells := cells } })
  | excTest (v p : Bool) : Effect s (.excTest v) (finish .ok { s with status := { s.status with pred := p } })
  /-- TXBUF encoded into or framed. -/
  | buffer {i} (bytes : List Byte) : Effect s i (finish .ok { s with txb := { s.txb with bytes := bytes } })
  | decoded {i} {m : Msg} {start len : Nat} {tid : Half} : DecodedBy s.acc.bytes i m start len → s.TakesTid (Deframes i) tid →
      Effect s i (finish (successCode m) (commitRx m start len { s with tidRx := tid }))
  | opened {i} (tr : Transport) : i = .openRtu ∨ i = .openTcp → s.status.isOpen = false →
      Effect s i (finish .ok (setFsm .idle { s with
        status := { s.status with isOpen := true, transport := tr }
        closeIssued := false
        tidNext := s.params.tidInit }))
  | sent {i} (code : ResultCode) (frame : List Byte) {out next : Half} :
      (out = s.tidOut ∧ next = s.tidNext) ∨ (TakesNextTid s i ∧ out = s.tidNext ∧ next = s.tidNext + 1#16) →
      Effect s i (finish code { s with
        txb := { s.txb with bytes := frame }
        tidOut := out
        tidNext := next
        env := (chanWrite frame s).env })
  | awaited {i} (role : Role) : i = .awaitResponse ∨ i = .awaitRequest → s.status.isOpen = true →
      Effect s i { s with
        acc := { bytes := [], idx := 0#32 }
        reads := 0#32
        status := { s.status with lastErr := none, role := role, fsm := .awaitingFrame, busy := true, done := false } }

/-- A command that only reports. -/
theorem Effect.finish_only {s : State} {i : Instr} (code : ResultCode) : Effect s i (finish code s) :=
  .report code (.inl rfl)

theorem settleDecode_effect {s : State} {i : Instr} {r : Except DecodeErr Msg} {start len : Nat} {tid : Half}
    (hr : ∀ m, r = .ok m → DecodedBy s.acc.bytes i m start len) (ht : s.TakesTid (Deframes i) tid) :
    Effect s i (settleDecode r start len { s with tidRx := tid }) := by
  cases r with
  | ok m => exact .decoded (hr m rfl) ht
  | error e => exact .report e.result ht

theorem settleMbap_effect {s : State} {i : Instr} {role : Role} (hi : Deframes i)
    (hr : ∀ {m start len}, MbapFrameIn s.acc.bytes role m start len → DecodedBy s.acc.bytes i m start len) :
    Effect s i (settleMbap (mbapParse s.acc.bytes role) s) := by
  rcases settleMbap_cases (mbapParse s.acc.bytes role) s with ⟨-, he⟩ | ⟨tid, r, n, hp, he⟩ <;> rw [he]
  · exact .finish_only _
  · exact settleDecode_effect (fun m hm => hr (mbapParse_frame (hm ▸ hp))) (.inr ⟨hi, mbapParse_header hp⟩)

theorem openWith_effect {s : State} {i : Instr} (tr : Transport) (hi : i = .openRtu ∨ i = .openTcp) :
    Effect s i (openWith tr s) := by
  cases ho : s.status.isOpen with
  | true => rw [openWith_of_open ho]; exact .finish_only _
  | false => rw [openWith_of_closed ho]; exact .opened tr hi ho

theorem sendReply_effect {s : State} {i : Instr} (body : List Byte) : Effect s i (sendReply body s) := by
  cases ho : s.status.isOpen with
  | false => rw [sendReply_of_closed ho]; exact .finish_only _
  | true => rw [sendReply_of_open ho, sendFrame_eq]; exact .sent _ _ (.inl ⟨rfl, rfl⟩)

theorem sendRequest_effect {s t : State} (h : execSendRequest s = .next t) : Effect s .sendRequest t := by
  cases h
  cases ho : s.status.isOpen with
  | false => exact .finish_only _
  | true =>
    simp only [if_true]
    cases ht : s.status.transport with
    | rtu =>
      have ha : assignTid s = s := by simp only [assignTid, ht]
      rw [ha, sendFrame_eq]
      exact .sent _ _ (.inl ⟨rfl, rfl⟩)
    | tcp =>
      have ha : assignTid s = { s with tidOut := s.tidNext, tidNext := s.tidNext + 1#16 } := by simp only [assignTid, ht]
      rw [ha, sendFrame_eq]
      exact .sent _ _ (.inr ⟨⟨rfl, ho, ht⟩, rfl, rfl⟩)

theorem startExchange_effect {s : State} {i : Instr} (role : Role) (hi : i = .awaitResponse ∨ i = .awaitRequest) :
    Effect s i (startExchange role s) := by
  cases ho : s.status.isOpen with
  | false => rw [startExchange_of_closed ho]; exact .finish_only _
  | true => rw [startExchange_of_open ho]; exact .awaited role hi ho

/-- Everything a command other than CLOSE can do. -/
theorem exec_effect {s t : State} {i : Instr} (hc : i ≠ .close) (h : exec i s = .next t) : Effect s i t := by
  cases i with
  | close => exact absurd rfl hc
  | sendRequest => exact sendRequest_effect h
  | nop => cases h; exact .finish_only _
  | crcInit => cases h; exact .crc _ (.inl rfl)
  | crcUpdate b => cases h; exact .crc _ (.inr (.inl ⟨b, rfl⟩))
  | crcSpanTx => cases h; exact .crc _ (.inr (.inr (.inl rfl)))
  | crcSpanAcc => cases h; exact .crc _ (.inr (.inr (.inr rfl)))
  | classify b => cases h; exact .classify b _
  | setCount n => cases h; exact .setCount n _
  | encodeReq | encodeRsp | encodeExc | rtuFrame | mbapFrame => cases h; exact .buffer _
  | decodeReq v => cases h; exact settleDecode_effect (fun _ => .request) (.inl rfl)
  | decodeRsp v => cases h; exact settleDecode_effect (fun _ => .response) (.inl rfl)
  | excTest v => cases h; exact .excTest v _
  | mbapDeframeReq => cases h; exact settleMbap_effect (.inl rfl) .mbapRequest
  | mbapDeframeRsp => cases h; exact settleMbap_effect (.inr rfl) .mbapResponse
  | openRtu => cases h; exact openWith_effect .rtu (.inl rfl)
  | openTcp => cases h; exact openWith_effect .tcp (.inr rfl)
  | sendResponse | sendException => cases h; exact sendReply_effect _
  | awaitResponse => cases h; exact startExchange_effect .response (.inl rfl)
  | awaitRequest => cases h; exact startExchange_effect .request (.inr rfl)

/-! ### What a read step does -/

/-- The state after a read answered with data, TID_RX written (44_connection.md R226, R229). -/
def State.received (s : State) (bs : List Byte) (tid : Half) : State := { appendAcc bs (chanRead s) with tidRx := tid }

/-- What a read step of the engine does to the state (44_connection.md R222 to R235). -/
inductive ReadOutcome (s : State) : State → Prop
  | failed (code : ResultCode) : ReadOutcome s (fatal code (chanRead s))
  | accepted {bs : List Byte} {tid : Half} {m : Msg} {start len : Nat} : readAnswer s = .data bs →
      (appendAcc bs (chanRead s)).TakesTid (s.status.transport = .tcp) tid →
      FrameIn s.status.transport (appendAcc bs (chanRead s)).acc.bytes s.status.role m start len →
      ReadOutcome s (accept m start len (s.received bs tid))
  | ended {bs : List Byte} {tid : Half} (code : ResultCode) : readAnswer s = .data bs →
      (appendAcc bs (chanRead s)).TakesTid (s.status.transport = .tcp) tid →
      ReadOutcome s (fatal code (s.received bs tid))
  | timedOut {bs : List Byte} {tid : Half} (e : DecodeErr) : readAnswer s = .data bs →
      (appendAcc bs (chanRead s)).TakesTid (s.status.transport = .tcp) tid →
      ReadOutcome s (fatal .timeout { s.received bs tid with status := { s.status with lastErr := some e } })
  | retrying {bs : List Byte} {tid : Half} (e : DecodeErr) : readAnswer s = .data bs → bs ≠ [] →
      (appendAcc bs (chanRead s)).TakesTid (s.status.transport = .tcp) tid →
      limitReached s.params.readLimit (bumpReads s.reads) = false →
      ReadOutcome s { s.received bs tid with status := { s.status with lastErr := some e, fsm := .retrying } }

/-- The attempt settles what the synchroniser answers, TID_RX written first (44_connection.md R227, R229). -/
theorem attempt_eq_settleSync (s : State) :
    ∃ o tid, attempt s = settleSync o { s with tidRx := tid } ∧ s.TakesTid (s.status.transport = .tcp) tid ∧
      ∀ m start len, o = .found m start len → FrameIn s.status.transport s.acc.bytes s.status.role m start len := by
  cases ht : s.status.transport with
  | rtu => exact ⟨_, s.tidRx, by simp only [attempt, ht], .inl rfl, fun m start len ho => rtuSync_found ho⟩
  | tcp =>
    cases hp : mbapParse s.acc.bytes s.status.role with
    | noHeader => exact ⟨.notYet .malformed, s.tidRx, by simp only [attempt, ht, hp], .inl rfl, nofun⟩
    | header tid r n =>
      refine ⟨tcpJudge s.status.role s.tidOut tid r n, tid, by simp only [attempt, ht, hp], .inr ⟨rfl, mbapParse_header hp⟩,
        fun m start len ho => ?_⟩
      unfold tcpJudge at ho
      split at ho
      · cases ho
      · cases r with
        | ok m' => cases ho; exact mbapParse_frame hp
        | error e => cases ho

/-- A read answered with data: the frame accepted, the exchange ended, or a further read to come. -/
theorem attempt_outcome {s : State} {bs : List Byte} (ha : readAnswer s = .data bs) (hbs : bs ≠ []) :
    ReadOutcome s (attempt (appendAcc bs (chanRead s))) := by
  obtain ⟨o, tid, he, htid, hframe⟩ := attempt_eq_settleSync (appendAcc bs (chanRead s))
  rw [he]
  cases o with
  | found m start len => exact .accepted ha htid (hframe m start len rfl)
  | fatal code => exact .ended code ha htid
  | notYet e =>
    change ReadOutcome s (notYet e (s.received bs tid))
    rcases notYet_cases e (s.received bs tid) with ⟨-, hn⟩ | ⟨hl, hn⟩ <;> rw [hn]
    · exact .timedOut e ha htid
    · exact .retrying e ha hbs htid hl

theorem readStep_outcome {s t : State} (h : readStep s = .next t) : ReadOutcome s t := by
  obtain ⟨hw, rfl⟩ := readStep_next h
  cases ha : readAnswer s with
  | closed => exact .failed _
  | timedOut => exact .failed _
  | ioError => exact .failed _
  | data bs =>
    have hbs : bs ≠ [] := by rintro rfl; simp [ha, ReadAnswer.wf] at hw
    exact attempt_outcome ha hbs

/-! ### What a step does -/

/-- The state with another list of turns still to come. -/
def State.withScript (s : State) (ts : List Turn) : State := { s with env := { s.env with script := ts } }

/-- What a step does to the state, by the agent that moves (20_memory.md R72, R76). -/
inductive Move (s : State) : State → Prop
  /-- An idle step, a host read, a dropped or ignored write, a write of STATUS. -/
  | quiet (ovr : Bool) (ts : List Turn) (hr : List (Nat × Word)) :
      Move s { s with status := { s.status with ovr := ovr }, env := { s.env with script := ts, hostReads := hr } }
  | reset (ts : List Turn) : s.resetNext → Move s (resetAction (s.withScript ts))
  | read (ts : List Turn) {t : State} : engineEnabled s.status = true → ReadOutcome (s.withScript ts) t → Move s t
  /-- A host write that a read-write register takes (20_memory.md R61). -/
  | register (ts : List Turn) {tid : Half} {txm : TxMsg} {txb acc : Buf} {idx : Half} : s.status.busy = false →
      txm.cells.length = s.txm.cells.length →
      (tid = s.tidNext ∨ ∃ v rest, s.env.script = .host (.write 0x10 v) :: rest ∧ tid = v.extractLsb' 0 16) →
      Move s { s.withScript ts with tidNext := tid, txm := txm, txb := txb, acc := acc, rx := { s.rx with idx := idx } }
  /-- A word that is no command's (30_encoding.md R83). -/
  | illegal (ts : List Turn) : s.status.busy = false → Move s (finish .illegalCommand (s.withScript ts))
  | command (i : Instr) (ts : List Turn) {t : State} : s.presents i → s.status.busy = false → Effect (s.withScript ts) i t → Move s t
  /-- CLOSE, the one command taken while BUSY is 1 (20_memory.md R66). -/
  | close (ts : List Turn) : s.presents .close → Move s (closeConnection (s.withScript ts))

theorem popTurn_eq_withScript (s : State) : popTurn s = s.withScript s.env.script.tail := rfl

/-- A step that leaves the state, with the turn used up or still to come. -/
theorem Move.idle (s : State) (ts : List Turn) : Move s (s.withScript ts) := .quiet s.status.ovr ts s.env.hostReads

/-- The register map is read at the register's own offset. -/
theorem Reg.offset_of_ofOffset {off : Nat} {r : Reg} (h : Reg.ofOffset off = some r) : r.offset = off := by
  simpa using List.find?_some h

/-- The word of CLOSE is the only one that decodes to it. -/
theorem decode_closeWord : decode closeWord = .ok .close := by rfl

theorem command_move {s t : State} {i : Instr} {ts : List Turn} (hp : s.presents i) (hb : s.status.busy = false ∨ i = .close)
    (h : exec i (s.withScript ts) = .next t) : Move s t := by
  by_cases hi : i = .close
  · subst hi
    cases h
    exact .close ts hp
  · exact .command i ts hp (hb.resolve_right hi) (exec_effect hi h)

theorem runCommand_move {s t : State} {w : Word} {rest : List Turn} (hs : s.env.script = .host (.write 0 w) :: rest)
    (h : runCommand w (popTurn s) = .next t) : Move s t := by
  rcases runCommand_cases w (popTurn s) with ⟨-, -, hr⟩ | ⟨hb, ⟨e, hd, hr⟩ | ⟨i, hd, hr⟩⟩ <;> rw [hr] at h
  · cases h
    exact .quiet true _ _
  · cases h
    refine .illegal _ (hb.resolve_right ?_)
    rintro rfl
    cases decode_closeWord.symm.trans hd
  · refine command_move ⟨w, rest, hs, hd⟩ (hb.imp_right ?_) h
    rintro rfl
    exact (Except.ok.inj (decode_closeWord.symm.trans hd)).symm

theorem writeReg_move {s : State} {r : Reg} {v : Word} {rest : List Turn} (hs : s.env.script = .host (.write r.offset v) :: rest)
    (hr : r.access = .rw) (hb : s.status.busy = false) : Move s (writeReg r v (popTurn s)) := by
  cases r with
  | tidNext => exact .register _ hb rfl (.inr ⟨v, rest, hs, BitVec.setWidth_eq_extractLsb' (by decide)⟩)
  | txvData => exact .register _ hb (writeCellPort_length _ _ _) (.inl rfl)
  | txmSid | txmFc | txmAddr | txmErr | txvIdx | txbLen | txbIdx | txbData | accLen | accIdx | accData | rxvIdx =>
    exact .register _ hb rfl (.inl rfl)
  | _ => simp [Reg.access] at hr

theorem writeStatus_move (s : State) (v : Word) : Move s (writeStatus v (popTurn s)) := by
  unfold writeStatus
  split
  · exact .quiet false _ _
  · exact .idle s _

theorem hostWrite_move {s t : State} {off : Nat} {v : Word} {rest : List Turn} (hs : s.env.script = .host (.write off v) :: rest)
    (h : hostWrite off v (popTurn s) = .next t) : Move s t := by
  unfold hostWrite at h
  split at h
  · cases h
    exact .idle s _
  · rename_i r hr
    obtain rfl := Reg.offset_of_ofOffset hr
    cases ha : r.access <;> simp only [ha] at h
    case wo =>
      cases r <;> simp [Reg.access] at ha
      exact runCommand_move hs h
    case ro => cases h; exact .idle s _
    case roW1c => cases h; exact writeStatus_move s v
    case rw =>
      cases hb : s.status.busy <;> simp only [popTurn_status, hb] at h <;> cases h
      · exact writeReg_move hs ha hb
      · exact .quiet true _ _

/-- Everything a step that answers next can do. -/
theorem step_move {s t : State} (h : step s = .next t) : Move s t := by
  rcases step_cases h with ⟨u, rfl | rfl, he, hr⟩ | ⟨-, rfl | rfl⟩ | ⟨rest, hs, rfl⟩ | ⟨off, rest, -, -, rfl⟩ |
    ⟨off, v, rest, hs, -, hw⟩
  · exact .read _ he (readStep_outcome hr)
  · exact .read _ he (readStep_outcome hr)
  · exact .idle _ _
  · exact .idle _ _
  · exact .reset _ ⟨rest, hs⟩
  · exact .quiet _ _ _
  · exact hostWrite_move hs hw

end Sys2Proof.Machine
end

section
/-! PROOFS. The invariant of the block holds at reset and every step keeps it. -/

namespace Sys2Proof.Machine

/-- RXV_IDX is the host's: the RX registers stay one message's whatever it holds. -/
theorem RxMsg.consistent_withIdx {r : RxMsg} (h : r.consistent) (idx : Half) : RxMsg.consistent { r with idx := idx } := by
  obtain ⟨kind, sid, fc, addr, count, err, cells, _, start, len⟩ := r
  cases kind with
  | none =>
    simp only [RxMsg.consistent, RxMsg.reset, RxMsg.mk.injEq] at h ⊢
    simpa using h
  | some k => cases k <;> exact h

theorem mem_of_knownErr {e : Byte} (h : knownErr e = true) :
    e ∈ [0x01#8, 0x02#8, 0x03#8, 0x04#8, 0x05#8, 0x06#8, 0x08#8, 0x0A#8, 0x0B#8] := by
  simpa [knownErr, or_assoc] using h

/-- A sound message leaves the RX registers one message's (10_state.md R45). -/
theorem commitRx_consistent {m : Msg} (hm : m.sound) (start len : Nat) (s : State) : (commitRx m start len s).rx.consistent := by
  cases hk : m.kind with
  | request => simpa [RxMsg.consistent, hk] using hm.noErr (by simp [hk])
  | response => simpa [RxMsg.consistent, hk] using hm.noErr (by simp [hk])
  | exception =>
    obtain ⟨ha, hc, hv, hf, he⟩ := hm.exception hk
    simp only [RxMsg.consistent, commitRx_rx, hk]
    exact ⟨ha, hc, hv, hf, mem_of_knownErr he⟩

/-- Without an exchange the invariant is five facts: its clauses on the waiting states say nothing. -/
theorem BlockInv.of_notWaiting {t : State} (hp : t.params.wf = true) (hm : Memory.wf t = true) (hb : t.status.busy = false)
    (hf : ¬ (t.status.fsm = .awaitingFrame ∨ t.status.fsm = .retrying)) (ho : t.status.isOpen = !t.closeIssued)
    (hr : t.rx.consistent) : BlockInv t where
  paramsWf := hp
  memoryWf := hm
  busyIffWaiting := by simp [hb, hf]
  busyOpen := by simp [hb]
  busyNotDone := by simp [hb]
  openIffNotClosed := ho
  awaitingFresh h := absurd (.inl h) hf
  retryingFailed h := absurd (.inr h) hf
  rxConsistent := hr

section
variable {s t : State}

/-- Without BUSY the state machine is in no waiting state (10_state.md R23). -/
theorem BlockInv.notWaiting (h : BlockInv s) (hb : s.status.busy = false) :
    ¬ (s.status.fsm = .awaitingFrame ∨ s.status.fsm = .retrying) := by
  simp [← h.busyIffWaiting, hb]

/-- The invariant does not look at OVR or at the environment. -/
theorem BlockInv.quiet (h : BlockInv s) (ovr : Bool) (env : Env) :
    BlockInv { s with status := { s.status with ovr := ovr }, env := env } :=
  ⟨h.paramsWf, h.memoryWf, h.busyIffWaiting, h.busyOpen, h.busyNotDone, h.openIffNotClosed, h.awaitingFresh, h.retryingFailed,
    h.rxConsistent⟩

theorem BlockInv.withScript (h : BlockInv s) (ts : List Turn) : BlockInv (s.withScript ts) :=
  h.quiet s.status.ovr { s.env with script := ts }

theorem BlockInv.resetWith {p : Params} (hp : p.wf = true) (e : Env) : BlockInv (State.resetWith p e) :=
  .of_notWaiting hp (Memory.wf_resetWith p e) rfl (by simp [State.resetWith, Status.reset]) rfl rfl

/-- The parameters of Config carry R8's bounds with them. -/
theorem params_wf : Config.params.wf = true := by
  simp only [Params.wf, Config.params]
  rcases Config.readLimit with _ | ⟨n, hn⟩ <;> rcases Config.accCap with _ | ⟨c, hc⟩ <;> simp [*]

/-- A command other than CLOSE keeps the invariant. -/
theorem BlockInv.effect (h : BlockInv s) (hb : s.status.busy = false) {i : Instr} (he : Effect s i t) (hm : Memory.wf t = true) :
    BlockInv t := by
  have hw := h.notWaiting hb
  cases he with
  | decoded hd _ => exact .of_notWaiting h.paramsWf hm rfl hw h.openIffNotClosed (commitRx_consistent hd.sound _ _ s)
  | opened => exact .of_notWaiting h.paramsWf hm rfl (by simp) rfl h.rxConsistent
  | awaited role _ ho =>
    exact
      { paramsWf := h.paramsWf
        memoryWf := hm
        busyIffWaiting := by simp
        busyOpen := fun _ => ho
        busyNotDone := fun _ => rfl
        openIffNotClosed := h.openIffNotClosed
        awaitingFresh := fun _ => ⟨rfl, rfl, rfl⟩
        retryingFailed := nofun
        rxConsistent := h.rxConsistent }
  | _ => exact .of_notWaiting h.paramsWf hm rfl hw h.openIffNotClosed h.rxConsistent

/-- CLOSE keeps the invariant, with an exchange in progress or without (44_connection.md R211). -/
theorem BlockInv.closeConnection (h : BlockInv s) (hm : Memory.wf (closeConnection s) = true) : BlockInv (closeConnection s) := by
  rw [closeConnection_eq] at hm ⊢
  refine .of_notWaiting h.paramsWf hm rfl ?_ rfl h.rxConsistent
  cases s.status.busy <;> simp

/-- READS counts up from any value (44_connection.md R226): it is never 0 after a read. -/
theorem bumpReads_ne_zero (r : Word) : bumpReads r ≠ 0#32 := by
  rw [bumpReads_eq]
  split <;> bv_omega

/-- Bytes that arrive leave ACC non-empty: ACC_CAP is at least 8 (00_scope.md R8). -/
theorem keepLast_ne_nil {p : Params} (hp : p.wf = true) {xs : List Byte} (hx : xs ≠ []) : keepLast p.accCap xs ≠ [] := by
  have hlen : 0 < xs.length := List.length_pos_of_ne_nil hx
  unfold keepLast
  split
  · exact hx
  · rename_i c hc
    have h8 : 8 ≤ c := by simp [Params.wf, hc] at hp; exact hp.2
    split
    · simp only [ne_eq, List.drop_eq_nil_iff]; omega
    · exact hx

/-- A read step keeps the invariant. -/
theorem BlockInv.readOutcome (h : BlockInv s) (hb : s.status.busy = true) (hr : ReadOutcome s t) (hm : Memory.wf t = true) :
    BlockInv t := by
  cases hr with
  | accepted _ _ hf => exact .of_notWaiting h.paramsWf hm rfl (by simp [accept]) h.openIffNotClosed (commitRx_consistent hf.sound _ _ s)
  | retrying e _ hbs _ hl =>
    exact
      { paramsWf := h.paramsWf
        memoryWf := hm
        busyIffWaiting := by simp [hb]
        busyOpen := fun _ => h.busyOpen hb
        busyNotDone := fun _ => h.busyNotDone hb
        openIffNotClosed := h.openIffNotClosed
        awaitingFresh := nofun
        retryingFailed := fun _ => ⟨nofun, bumpReads_ne_zero _, keepLast_ne_nil h.paramsWf (by simp [hbs]), hl⟩
        rxConsistent := h.rxConsistent }
  | _ => exact .of_notWaiting h.paramsWf hm rfl (by simp [fatal]) h.openIffNotClosed h.rxConsistent

theorem engineEnabled_busy {st : Status} (h : engineEnabled st = true) : st.busy = true := by
  simp only [engineEnabled, Bool.and_eq_true] at h
  exact h.1

/-- A step keeps the invariant, whoever moves. -/
theorem BlockInv.move (h : BlockInv s) (hmove : Move s t) (hm : Memory.wf t = true) : BlockInv t := by
  cases hmove with
  | quiet ovr ts hr => exact h.quiet ovr _
  | reset ts _ => exact .resetWith h.paramsWf _
  | read ts he hr => exact (h.withScript ts).readOutcome (engineEnabled_busy he) hr hm
  | register ts hb _ _ =>
    exact .of_notWaiting h.paramsWf hm hb (h.notWaiting hb) h.openIffNotClosed (RxMsg.consistent_withIdx h.rxConsistent _)
  | illegal ts hb => exact .of_notWaiting h.paramsWf hm rfl (h.notWaiting hb) h.openIffNotClosed h.rxConsistent
  | command i ts _ hb he => exact (h.withScript ts).effect hb he hm
  | close ts _ => exact (h.withScript ts).closeConnection hm

end

/-- Settles O18: reset starts no exchange, and its parameters are ones R8 allows. -/
theorem invariantHoldsAfterReset : Obligations.InvariantHoldsAfterReset :=
  ⟨.resetWith params_wf _, fun _ e hp => .resetWith hp e⟩

/-- Settles O19, by what the step's agent does: only AWAIT_* and a failed attempt leave an exchange running. -/
theorem everyStepKeepsTheInvariant : Obligations.EveryStepKeepsTheInvariant :=
  fun _ _ h hs => h.move (step_move hs) (Memory.wf_step h.memoryWf hs)

end Sys2Proof.Machine
end

section
/-! PROOFS. The whole machine: which step writes which register, from what `Move`, `Effect` and `ReadOutcome` say a step can do. -/

namespace Sys2Proof.Machine

variable {s t : State}

theorem State.presents.either {i a b : Instr} (hp : s.presents i) (hi : i = a ∨ i = b) : s.presents a ∨ s.presents b := by
  rcases hi with rfl | rfl
  · exact .inl hp
  · exact .inr hp

/-! ### Registers that only commands write -/

/-- The registers that only a command other than CLOSE, or reset, writes, as they were. -/
structure KeepsCommandRegisters (s t : State) : Prop where
  crc : t.crc = s.crc
  cls : t.cls = s.cls
  transport : t.status.transport = s.status.transport
  pred : t.status.pred = s.status.pred
  role : t.status.role = s.status.role
  txmCount : t.txm.cells.length = s.txm.cells.length
  tidOut : t.tidOut = s.tidOut

theorem ReadOutcome.keeps (h : ReadOutcome s t) : KeepsCommandRegisters s t := by
  cases h <;> exact ⟨rfl, rfl, rfl, rfl, rfl, rfl, rfl⟩

/-- A step is a reset or a command other than CLOSE, or it keeps the registers of the commands. -/
theorem Move.command_or_keeps (h : Move s t) (hr : ¬ s.resetNext) :
    (∃ i ts, s.presents i ∧ Effect (s.withScript ts) i t) ∨ KeepsCommandRegisters s t := by
  cases h with
  | reset _ hreset => exact absurd hreset hr
  | command i ts hp _ he => exact .inl ⟨i, ts, hp, he⟩
  | read ts _ ho => exact .inr { ho.keeps with }
  | register ts _ hlen _ => exact .inr ⟨rfl, rfl, rfl, rfl, rfl, hlen, rfl⟩
  | close => rw [closeConnection_eq]; exact .inr ⟨rfl, rfl, rfl, rfl, rfl, rfl, rfl⟩
  | _ => exact .inr ⟨rfl, rfl, rfl, rfl, rfl, rfl, rfl⟩

section
variable {i : Instr}

theorem Effect.crc_of_ne (h : Effect s i t) (hne : t.crc ≠ s.crc) : WritesCrc i := by
  cases h with
  | crc _ hi => exact hi
  | _ => exact absurd rfl hne

theorem Effect.cls_of_ne (h : Effect s i t) (hne : t.cls ≠ s.cls) : ∃ b, i = .classify b := by
  cases h with
  | classify b => exact ⟨b, rfl⟩
  | _ => exact absurd rfl hne

theorem Effect.transport_of_ne (h : Effect s i t) (hne : t.status.transport ≠ s.status.transport) :
    i = .openRtu ∨ i = .openTcp := by
  cases h with
  | opened _ hi => exact hi
  | _ => exact absurd rfl hne

theorem Effect.isOpen_of_ne (h : Effect s i t) (hne : t.status.isOpen ≠ s.status.isOpen) : i = .openRtu ∨ i = .openTcp := by
  cases h with
  | opened _ hi => exact hi
  | _ => exact absurd rfl hne

theorem Effect.pred_of_ne (h : Effect s i t) (hne : t.status.pred ≠ s.status.pred) : ∃ v, i = .excTest v := by
  cases h with
  | excTest v => exact ⟨v, rfl⟩
  | _ => exact absurd rfl hne

theorem Effect.role_of_ne (h : Effect s i t) (hne : t.status.role ≠ s.status.role) : i = .awaitResponse ∨ i = .awaitRequest := by
  cases h with
  | awaited _ hi => exact hi
  | _ => exact absurd rfl hne

theorem Effect.txmCount_of_ne (h : Effect s i t) (hne : t.txm.cells.length ≠ s.txm.cells.length) : ∃ n, i = .setCount n := by
  cases h with
  | setCount n => exact ⟨n, rfl⟩
  | _ => exact absurd rfl hne

end

/-- OPEN changes only by OPEN_*, CLOSE or reset (10_state.md R26). -/
theorem Move.isOpen_of_ne (h : Move s t) (hr : ¬ s.resetNext) (hne : t.status.isOpen ≠ s.status.isOpen) :
    s.presents .openRtu ∨ s.presents .openTcp ∨ s.presents .close := by
  cases h with
  | reset _ hreset => exact absurd hreset hr
  | close _ hp => exact .inr (.inr hp)
  | command i _ hp _ he =>
    exact or_assoc.mp (.inl (hp.either (he.isOpen_of_ne hne)))
  | read _ _ ho => cases ho <;> exact absurd rfl hne
  | _ => exact absurd rfl hne

/-- Settles O57: of the moves of a step only a command's (and CLOSE's, for OPEN) writes one of these registers, and `Effect` says which. -/
theorem onlyTheirCommandsWriteTheRegisters : Obligations.OnlyTheirCommandsWriteTheRegisters := by
  intro s t hs hr
  have hm := step_move hs
  rcases hm.command_or_keeps hr with ⟨i, ts, hp, he⟩ | hk
  · refine ⟨fun hne => ?_, fun hne => ?_, fun hne => ?_, hm.isOpen_of_ne hr, fun hne => ?_, fun hne => ?_, fun hne => ?_⟩
    · rcases he.crc_of_ne hne with rfl | ⟨b, rfl⟩ | rfl | rfl
      · exact .inl hp
      · exact .inr (.inl ⟨b, hp⟩)
      · exact .inr (.inr (.inl hp))
      · exact .inr (.inr (.inr hp))
    · obtain ⟨b, rfl⟩ := he.cls_of_ne hne
      exact ⟨b, hp⟩
    · exact hp.either (he.transport_of_ne hne)
    · obtain ⟨v, rfl⟩ := he.pred_of_ne hne
      exact ⟨v, hp⟩
    · exact hp.either (he.role_of_ne hne)
    · obtain ⟨n, rfl⟩ := he.txmCount_of_ne hne
      exact ⟨n, hp⟩
  · exact ⟨absurd hk.crc, absurd hk.cls, absurd hk.transport, hm.isOpen_of_ne hr, absurd hk.pred, absurd hk.role, absurd hk.txmCount⟩

/-! ### The channel's close request -/

@[simp] theorem closeCount_append (log : List ChanEvent) (e : ChanEvent) :
    closeCount (log ++ [e]) = closeCount log + if e = .close then 1 else 0 := by
  simp [closeCount, List.countP_cons]

theorem ReadOutcome.closeCount_eq (h : ReadOutcome s t) : closeCount t.env.chanLog = closeCount s.env.chanLog := by
  cases h <;> simp [State.received, accept, fatal]

theorem ReadOutcome.closeIssued_eq (h : ReadOutcome s t) : t.closeIssued = s.closeIssued := by
  cases h <;> rfl

theorem Effect.closeCount_eq {i : Instr} (h : Effect s i t) : closeCount t.env.chanLog = closeCount s.env.chanLog := by
  cases h with
  | sent => simp
  | _ => rfl

theorem Effect.closeIssued_cases {i : Instr} (h : Effect s i t) :
    t.closeIssued = s.closeIssued ∨ ((i = .openRtu ∨ i = .openTcp) ∧ s.status.isOpen = false ∧ t.closeIssued = false) := by
  cases h with
  | opened _ hi ho => exact .inr ⟨hi, ho, rfl⟩
  | _ => exact .inl rfl

/-- Settles O45: only CLOSE makes the request, and only with `close_issued` 0. -/
theorem channelIsToldToCloseOncePerLifetime : Obligations.ChannelIsToldToCloseOncePerLifetime := by
  intro s t hs
  cases step_move hs with
  | quiet | register | illegal => exact .inr ⟨rfl, .inl rfl⟩
  | reset _ hr => exact .inr ⟨rfl, .inr (.inl ⟨hr, rfl⟩)⟩
  | read _ _ ho => exact .inr ⟨ho.closeCount_eq, .inl ho.closeIssued_eq⟩
  | command i _ hp _ he =>
    exact .inr ⟨he.closeCount_eq, he.closeIssued_cases.imp_right fun ⟨hi, ho, hc⟩ => .inr ⟨hp.either hi, ho, hc⟩⟩
  | close ts hp =>
    rw [closeConnection_eq]
    cases hc : s.closeIssued with
    | true => exact .inr ⟨by simp [State.withScript, hc], .inl rfl⟩
    | false => exact .inl ⟨by simp [State.withScript, hc], hp, rfl, rfl⟩

/-! ### The transaction IDs, READS and LASTERR -/

section
variable {i : Instr}

theorem Effect.tidOut_of_ne (h : Effect s i t) (hne : t.tidOut ≠ s.tidOut) : TakesNextTid s i ∧ t.tidOut = s.tidNext := by
  cases h with
  | sent _ _ htid =>
    rcases htid with ⟨hout, -⟩ | ⟨hi, hout, -⟩
    · exact absurd hout hne
    · exact ⟨hi, hout⟩
  | _ => exact absurd rfl hne

theorem Effect.tidNext_of_ne (h : Effect s i t) (hne : t.tidNext ≠ s.tidNext) :
    ((i = .openRtu ∨ i = .openTcp) ∧ s.status.isOpen = false ∧ t.tidNext = s.params.tidInit) ∨
    (TakesNextTid s i ∧ t.tidNext = s.tidNext + 1#16) := by
  cases h with
  | opened _ hi ho => exact .inl ⟨hi, ho, rfl⟩
  | sent _ _ htid =>
    rcases htid with ⟨-, hnext⟩ | ⟨hi, -, hnext⟩
    · exact absurd hnext hne
    · exact .inr ⟨hi, hnext⟩
  | _ => exact absurd rfl hne

/-- TID_RX changes only to the transaction ID of the complete header in ACC, by a deframe. -/
theorem State.TakesTid.of_ne {deframes : Prop} {tid : Half} (h : s.TakesTid deframes tid) (hne : tid ≠ s.tidRx) :
    deframes ∧ 6 ≤ s.acc.bytes.length ∧ tid = rdBe16 s.acc.bytes 0 :=
  h.resolve_left hne

theorem Effect.tidRx_of_ne (h : Effect s i t) (hne : t.tidRx ≠ s.tidRx) :
    Deframes i ∧ 6 ≤ t.acc.bytes.length ∧ t.tidRx = rdBe16 t.acc.bytes 0 := by
  cases h with
  | report _ htid => exact htid.of_ne hne
  | decoded _ htid => exact htid.of_ne hne
  | _ => exact absurd rfl hne

theorem Effect.reads_of_ne (h : Effect s i t) (hne : t.reads ≠ s.reads) :
    (i = .awaitResponse ∨ i = .awaitRequest) ∧ s.status.isOpen = true ∧ t.reads = 0#32 := by
  cases h with
  | awaited _ hi ho => exact ⟨hi, ho, rfl⟩
  | _ => exact absurd rfl hne

theorem Effect.lastErr_of_ne (h : Effect s i t) (hne : t.status.lastErr ≠ s.status.lastErr) :
    (i = .awaitResponse ∨ i = .awaitRequest) ∧ s.status.isOpen = true ∧ t.status.lastErr = none := by
  cases h with
  | awaited _ hi ho => exact ⟨hi, ho, rfl⟩
  | _ => exact absurd rfl hne

end

theorem ReadOutcome.tidNext_eq (h : ReadOutcome s t) : t.tidNext = s.tidNext := by
  cases h <;> rfl

theorem ReadOutcome.tidRx_of_ne (h : ReadOutcome s t) (hne : t.tidRx ≠ s.tidRx) :
    s.status.transport = .tcp ∧ 6 ≤ t.acc.bytes.length ∧ t.tidRx = rdBe16 t.acc.bytes 0 := by
  cases h with
  | failed => exact absurd rfl hne
  | accepted _ htid _ => exact htid.of_ne hne
  | ended _ _ htid => exact htid.of_ne hne
  | timedOut _ _ htid => exact htid.of_ne hne
  | retrying _ _ _ htid _ => exact htid.of_ne hne

/-- READS counts up by 1 where it does not saturate (44_connection.md R226). -/
theorem bumpReads_of_ne {r : Word} (h : bumpReads r ≠ r) : (bumpReads r).toNat = r.toNat + 1 := by
  rw [bumpReads_eq] at h ⊢
  split at h
  · rename_i hlt
    rw [if_pos hlt]
    bv_omega
  · exact absurd rfl h

/-- A read answered with anything but data leaves READS and LASTERR; data counts READS up. -/
theorem ReadOutcome.data_or_keeps (h : ReadOutcome s t) :
    ((∃ bs, readAnswer s = .data bs) ∧ t.reads = bumpReads s.reads) ∨
    (t.reads = s.reads ∧ t.status.lastErr = s.status.lastErr) := by
  cases h with
  | failed => exact .inr ⟨rfl, rfl⟩
  | accepted hd _ _ => exact .inl ⟨⟨_, hd⟩, rfl⟩
  | ended _ hd _ => exact .inl ⟨⟨_, hd⟩, rfl⟩
  | timedOut _ hd _ => exact .inl ⟨⟨_, hd⟩, rfl⟩
  | retrying _ hd _ _ _ => exact .inl ⟨⟨_, hd⟩, rfl⟩

theorem ReadOutcome.reads_of_ne (h : ReadOutcome s t) (hne : t.reads ≠ s.reads) :
    (∃ bs, readAnswer s = .data bs) ∧ t.reads.toNat = s.reads.toNat + 1 := by
  rcases h.data_or_keeps with ⟨hd, hr⟩ | ⟨hr, -⟩
  · rw [hr] at hne ⊢
    exact ⟨hd, bumpReads_of_ne hne⟩
  · exact absurd hr hne

theorem ReadOutcome.lastErr_of_ne (h : ReadOutcome s t) (hne : t.status.lastErr ≠ s.status.lastErr) :
    (∃ bs, readAnswer s = .data bs) ∧ ∃ e, t.status.lastErr = some e := by
  cases h with
  | timedOut e hd _ => exact ⟨⟨_, hd⟩, e, rfl⟩
  | retrying e hd _ _ _ => exact ⟨⟨_, hd⟩, e, rfl⟩
  | _ => exact absurd rfl hne

/-- TID_NEXT changes only by OPEN_*, a request over TCP, a host write or reset (10_state.md R36). -/
theorem Move.tidNext_of_ne (h : Move s t) (hr : ¬ s.resetNext) (hne : t.tidNext ≠ s.tidNext) :
    ((s.presents .openRtu ∨ s.presents .openTcp) ∧ s.status.isOpen = false ∧ t.tidNext = s.params.tidInit) ∨
    (s.presents .sendRequest ∧ s.status.isOpen = true ∧ s.status.transport = .tcp ∧ t.tidNext = s.tidNext + 1#16) ∨
    (∃ v rest, s.env.script = .host (.write 0x10 v) :: rest ∧ s.status.busy = false ∧ t.tidNext = v.extractLsb' 0 16) := by
  cases h with
  | reset _ hreset => exact absurd hreset hr
  | read _ _ ho => exact absurd ho.tidNext_eq hne
  | register _ hb _ htid =>
    rcases htid with htid | ⟨v, rest, hs, htid⟩
    · exact absurd htid hne
    · exact .inr (.inr ⟨v, rest, hs, hb, htid⟩)
  | command i _ hp _ he =>
    rcases he.tidNext_of_ne hne with ⟨hi, ho, ht⟩ | ⟨⟨rfl, ho, htcp⟩, ht⟩
    · exact .inl ⟨hp.either hi, ho, ht⟩
    · exact .inr (.inl ⟨hp, ho, htcp, ht⟩)
  | close => rw [closeConnection_eq] at hne; exact absurd rfl hne
  | _ => exact absurd rfl hne

/-- TID_RX changes only by a deframe, or by reset (10_state.md R38). -/
theorem Move.tidRx_of_ne (h : Move s t) (hr : ¬ s.resetNext) (hne : t.tidRx ≠ s.tidRx) :
    (s.presents .mbapDeframeReq ∨ s.presents .mbapDeframeRsp ∨ (s.status.busy = true ∧ s.status.transport = .tcp)) ∧
      6 ≤ t.acc.bytes.length ∧ t.tidRx = rdBe16 t.acc.bytes 0 := by
  cases h with
  | reset _ hreset => exact absurd hreset hr
  | read _ hen ho =>
    obtain ⟨htcp, hheader⟩ := ho.tidRx_of_ne hne
    exact ⟨.inr (.inr ⟨engineEnabled_busy hen, htcp⟩), hheader⟩
  | command i _ hp _ he =>
    obtain ⟨rfl | rfl, hheader⟩ := he.tidRx_of_ne hne
    · exact ⟨.inl hp, hheader⟩
    · exact ⟨.inr (.inl hp), hheader⟩
  | close => rw [closeConnection_eq] at hne; exact absurd rfl hne
  | _ => exact absurd rfl hne

/-- READS changes only by AWAIT_*, a read answered with data, or reset (10_state.md R39). -/
theorem Move.reads_of_ne (h : Move s t) (hr : ¬ s.resetNext) (hne : t.reads ≠ s.reads) :
    ((s.presents .awaitResponse ∨ s.presents .awaitRequest) ∧ s.status.isOpen = true ∧ t.reads = 0#32) ∨
    (s.status.busy = true ∧ (∃ bs, readAnswer s = .data bs) ∧ t.reads.toNat = s.reads.toNat + 1) := by
  cases h with
  | reset _ hreset => exact absurd hreset hr
  | read _ hen ho => exact .inr ⟨engineEnabled_busy hen, ho.reads_of_ne hne⟩
  | command i _ hp _ he =>
    obtain ⟨hi, ho, ht⟩ := he.reads_of_ne hne
    exact .inl ⟨hp.either hi, ho, ht⟩
  | close => rw [closeConnection_eq] at hne; exact absurd rfl hne
  | _ => exact absurd rfl hne

/-- LASTERR changes only by AWAIT_*, a read answered with data, or reset (10_state.md R32). -/
theorem Move.lastErr_of_ne (h : Move s t) (hr : ¬ s.resetNext) (hne : t.status.lastErr ≠ s.status.lastErr) :
    ((s.presents .awaitResponse ∨ s.presents .awaitRequest) ∧ s.status.isOpen = true ∧ t.status.lastErr = none) ∨
    (s.status.busy = true ∧ (∃ bs, readAnswer s = .data bs) ∧ ∃ e, t.status.lastErr = some e) := by
  cases h with
  | reset _ hreset => exact absurd hreset hr
  | read _ hen ho => exact .inr ⟨engineEnabled_busy hen, ho.lastErr_of_ne hne⟩
  | command i _ hp _ he =>
    obtain ⟨hi, ho, ht⟩ := he.lastErr_of_ne hne
    exact .inl ⟨hp.either hi, ho, ht⟩
  | close => rw [closeConnection_eq] at hne; exact absurd rfl hne
  | _ => exact absurd rfl hne

/-- Settles O60, register by register. -/
theorem idsReadsAndLastErrChangeOnlyByTheirRules : Obligations.IdsReadsAndLastErrChangeOnlyByTheirRules := by
  intro s t hs hr
  have hm := step_move hs
  refine ⟨fun hne => ?_, hm.tidNext_of_ne hr, hm.tidRx_of_ne hr, hm.reads_of_ne hr, hm.lastErr_of_ne hr⟩
  rcases hm.command_or_keeps hr with ⟨i, ts, hp, he⟩ | hk
  · obtain ⟨⟨rfl, ho, htcp⟩, ht⟩ := he.tidOut_of_ne hne
    exact ⟨hp, ho, htcp, ht⟩
  · exact absurd hk.tidOut hne

/-! ### The RX registers -/

theorem successCode_eq (m : Msg) : successCode m = if m.kind = .exception then .exceptionReceived else .ok := by
  cases h : m.kind <;> simp [successCode, h]

/-- Settles O56: only a decode command that finds a message and a read step that accepts a frame commit one. -/
theorem rxRegistersAreWrittenTogetherByADecode : Obligations.RxRegistersAreWrittenTogetherByADecode := by
  intro s t hs
  cases step_move hs with
  | quiet | register | illegal => exact .inl rfl
  | reset _ hr => exact .inr (.inl ⟨hr, rfl⟩)
  | close => rw [closeConnection_eq]; exact .inl rfl
  | command i ts hp _ he =>
    cases he with
    | @decoded _ m start len _ hd _ =>
      refine .inr (.inr ⟨m, start, len, rfl, successCode_eq m, rfl, ?_⟩)
      cases hd with
      | @request v _ hf => exact .inl ⟨⟨v, .inl ⟨hp, hf⟩⟩, rfl, rfl⟩
      | @response v _ hf => exact .inl ⟨⟨v, .inr ⟨hp, hf⟩⟩, rfl, rfl⟩
      | mbapRequest hf => exact .inr (.inl ⟨hp, hf⟩)
      | mbapResponse hf => exact .inr (.inr (.inl ⟨hp, hf⟩))
    | _ => exact .inl rfl
  | read ts hen ho =>
    cases ho with
    | @accepted _ _ m start len _ _ hf =>
      refine .inr (.inr ⟨m, start, len, rfl, successCode_eq m, rfl, ?_⟩)
      have hb := engineEnabled_busy hen
      change FrameIn s.status.transport _ _ _ _ _ at hf
      cases htr : s.status.transport <;> rw [htr] at hf
      case tcp => exact .inr (.inr (.inr (.inl ⟨hb, rfl, hf⟩)))
      case rtu => exact .inr (.inr (.inr (.inr ⟨hb, rfl, hf⟩)))
    | _ => exact .inl rfl

end Sys2Proof.Machine
end

section
/-! PROOFS. The host port: the register map, the reset values it reads, the bits of STATUS, and the TX value port. -/

namespace Sys2Proof.Machine

/-! ### The register map -/

/-- The offsets of the registers are the 32 multiples of 4 below 0x80 (10_state.md R51). -/
theorem Reg.offset_eq_four_mul (r : Reg) : ∃ k < 32, r.offset = 4 * k :=
  ⟨r.offset / 4, by cases r <;> decide, by cases r <;> rfl⟩

theorem Reg.ofOffset_of_unlisted {off : Nat} (h : ∀ k < 32, off ≠ 4 * k) : Reg.ofOffset off = none := by
  cases hr : Reg.ofOffset off with
  | none => rfl
  | some r =>
    obtain ⟨k, hk, ho⟩ := r.offset_eq_four_mul
    exact absurd ((Reg.offset_of_ofOffset hr).symm.trans ho) (h k hk)

@[simp] theorem Reg.ofOffset_offset (r : Reg) : Reg.ofOffset r.offset = some r := by
  cases r <;> rfl

theorem hostRead_offset (r : Reg) (s : State) : hostRead r.offset s = readReg r s := by
  simp [hostRead]

/-- A read-write register takes a write while BUSY is 0 (20_memory.md R61). -/
theorem hostWrite_offset {r : Reg} {s : State} (hr : r.access = .rw) (hb : s.status.busy = false) (v : Word) :
    hostWrite r.offset v s = .next (writeReg r v s) := by
  simp [hostWrite, hr, hb]

/-- Settles O10: no register stands at the offset. -/
theorem reservedOffsetsReadZeroAndIgnoreWrites : Obligations.ReservedOffsetsReadZeroAndIgnoreWrites := by
  intro s off v h
  simp [hostRead, hostWrite, Reg.ofOffset_of_unlisted h]

/-! ### Reset values -/

theorem statusWord_reset : statusWord Status.reset = 0#32 := by decide

theorem classWord_reset : classWord { fc := 0#8, ftype := .unknown, rcat := .unknown } = 0#32 := by decide

/-- Every register but CRC, TID_NEXT and RXM_KIND reads 0 after reset (10_state.md R50). -/
theorem readReg_resetWith {r : Reg} (hcrc : r ≠ .crc) (htid : r ≠ .tidNext) (hkind : r ≠ .rxmKind) (p : Params) (e : Env) :
    readReg r (State.resetWith p e) = 0#32 := by
  cases r with
  | crc => exact absurd rfl hcrc
  | tidNext => exact absurd rfl htid
  | rxmKind => exact absurd rfl hkind
  | status => exact statusWord_reset
  | cls => exact classWord_reset
  | _ => rfl

/-- Settles O16, register by register. -/
theorem resetLeavesTheStatedValues : Obligations.ResetLeavesTheStatedValues := by
  refine ⟨rfl, fun p e => ⟨rfl, rfl, rfl, fun off hcrc htid hkind => ?_, rfl, rfl, rfl, rfl, rfl⟩⟩
  cases hr : Reg.ofOffset off with
  | none => simp [hostRead, hr]
  | some r =>
    obtain rfl := Reg.offset_of_ofOffset hr
    rw [hostRead_offset]
    exact readReg_resetWith (by rintro rfl; exact hcrc rfl) (by rintro rfl; exact htid rfl) (by rintro rfl; exact hkind rfl) p e

/-! ### STATUS -/

/-- A field of a word, bit by bit. -/
theorem extractLsb'_eq_of_getLsbD {w n pos : Nat} {x : BitVec w} {y : BitVec n}
    (h : ∀ k < n, x.getLsbD (pos + k) = y.getLsbD k) : x.extractLsb' pos n = y := by
  apply BitVec.eq_of_getLsbD_eq
  intro k hk
  simpa [hk] using h k hk

theorem flagAt_getLsbD (pos : Nat) (b : Bool) {k : Nat} (hk : k < 32) : (flagAt pos b).getLsbD k = (b && decide (k = pos)) := by
  cases b with
  | false => simp [flagAt]
  | true =>
    rw [Bool.eq_iff_iff]
    simp [flagAt, hk]
    omega

theorem fieldAt_getLsbD (pos : Nat) {n : Nat} (x : BitVec n) {k : Nat} (hk : k < 32) :
    (fieldAt pos x).getLsbD k = (!decide (k < pos) && x.getLsbD (k - pos)) := by
  simp [fieldAt, hk]

/-- Bit `k` of STATUS, as the bit of each field there. -/
theorem statusWord_getLsbD (st : Status) {k : Nat} (hk : k < 32) :
    (statusWord st).getLsbD k =
      (st.busy && decide (k = 0) || st.done && decide (k = 1) || st.ovr && decide (k = 2) || st.isOpen && decide (k = 3) ||
        st.transport.bit && decide (k = 4) || st.pred && decide (k = 5) || st.role.bit && decide (k = 6) ||
        !decide (k < 8) && st.fsm.code.getLsbD (k - 8) || !decide (k < 16) && st.result.code.getLsbD (k - 16) ||
        !decide (k < 24) && (lastErrCode st.lastErr).getLsbD (k - 24)) := by
  simp only [statusWord, BitVec.getLsbD_or, flagAt_getLsbD, fieldAt_getLsbD, hk]

theorem statusWord_fsm (st : Status) : (statusWord st).extractLsb' 8 3 = st.fsm.code := by
  refine extractLsb'_eq_of_getLsbD fun k hk => ?_
  rw [statusWord_getLsbD st (by omega)]
  interval_cases k <;> simp

theorem statusWord_unused (st : Status) : (statusWord st).extractLsb' 11 5 = 0#5 := by
  refine extractLsb'_eq_of_getLsbD fun k hk => ?_
  rw [statusWord_getLsbD st (by omega)]
  interval_cases k <;> simp

theorem statusWord_result (st : Status) : (statusWord st).extractLsb' 16 8 = st.result.code := by
  refine extractLsb'_eq_of_getLsbD fun k hk => ?_
  rw [statusWord_getLsbD st (by omega)]
  interval_cases k <;> simp

theorem statusWord_lastErr (st : Status) : (statusWord st).extractLsb' 24 8 = lastErrCode st.lastErr := by
  refine extractLsb'_eq_of_getLsbD fun k hk => ?_
  rw [statusWord_getLsbD st (by omega)]
  interval_cases k <;> simp

/-- A write of STATUS clears OVR by its bit 2 (10_state.md R25). -/
theorem writeStatus_eq (v : Word) (s : State) :
    writeStatus v s = { s with status := { s.status with ovr := s.status.ovr && !v.getLsbD 2 } } := by
  unfold writeStatus
  cases v.getLsbD 2 <;> simp

/-- Settles O9, field by field. -/
theorem statusReadsItsFieldsAtTheirBits : Obligations.StatusReadsItsFieldsAtTheirBits := by
  intro s
  have hread : hostRead 0x04 s = statusWord s.status := rfl
  rw [hread, statusWord_fsm, statusWord_result, statusWord_lastErr]
  simp (disch := decide) only [statusWord_getLsbD]
  refine ⟨by simp, by simp, by simp, by simp, ?_, by simp, ?_, by simp, rfl, statusWord_unused _, rfl, ?_,
    fun p e => statusWord_reset, fun v => ?_⟩
  · cases s.status.transport <;> simp [Transport.bit]
  · cases s.status.role <;> simp [Role.bit]
  · rcases s.status.lastErr with _ | e
    · rfl
    · cases e <;> rfl
  · exact congrArg Host.Outcome.next (writeStatus_eq v s)

/-! ### The TX value port -/

/-- A tag above a data field reads back, with 0 above both (30_encoding.md R105). -/
theorem tagged_fields (tag : BitVec 2) (data : Half) :
    ((tag.setWidth 32 <<< 16 ||| data.setWidth 32).extractLsb' 16 2, (tag.setWidth 32 <<< 16 ||| data.setWidth 32).extractLsb' 0 16,
      (tag.setWidth 32 <<< 16 ||| data.setWidth 32).extractLsb' 18 14) = (tag, data, 0#14) := by
  have htag : (tag.setWidth 32 <<< 16 ||| data.setWidth 32).extractLsb' 16 2 = tag :=
    extractLsb'_eq_of_getLsbD fun k hk => by simp [hk, show 16 + k < 32 by omega]
  have hdata : (tag.setWidth 32 <<< 16 ||| data.setWidth 32).extractLsb' 0 16 = data :=
    extractLsb'_eq_of_getLsbD fun k hk => by simp [hk, show k < 32 by omega]
  have hzero : (tag.setWidth 32 <<< 16 ||| data.setWidth 32).extractLsb' 18 14 = 0#14 :=
    extractLsb'_eq_of_getLsbD fun k hk => by
      simp [show 18 + k < 32 by omega, BitVec.getLsbD_of_ge tag (18 + k - 16) (by omega), BitVec.getLsbD_of_ge data (18 + k) (by omega)]
  rw [htag, hdata, hzero]

theorem Cell.toWord_fields (c : Cell) :
    (c.toWord.extractLsb' 16 2, c.toWord.extractLsb' 0 16, c.toWord.extractLsb' 18 14) =
      match c with
      | .bit b => (0#2, if b then 1#16 else 0#16, 0#14)
      | .word w => (1#2, w, 0#14)
      | .raw r => (2#2, r, 0#14) := by
  cases c with
  | bit b => cases b <;> decide
  | word w => exact tagged_fields 1#2 w
  | raw r => exact tagged_fields 2#2 r

theorem readCellPort_of_le {cells : List Cell} {idx : Half} (h : cells.length ≤ idx.toNat) : readCellPort cells idx = 0#32 := by
  simp [readCellPort, List.getElem?_eq_none h]

theorem readCellPort_of_getElem? {cells : List Cell} {idx : Half} {c : Cell} (h : cells[idx.toNat]? = some c) :
    readCellPort cells idx = c.toWord := by
  simp [readCellPort, h]

/-- Tag 3 is no cell's (10_state.md R44). -/
theorem writeCellPort_of_tag3 {cells : List Cell} {idx : Half} {v : Word} (h : v.extractLsb' 16 2 = 3#2) :
    writeCellPort cells idx v = cells := by
  simp [writeCellPort, Cell.ofWord, h]

theorem writeCellPort_of_le {cells : List Cell} {idx : Half} {v : Word} (h : cells.length ≤ idx.toNat) :
    writeCellPort cells idx v = cells := by
  unfold writeCellPort
  split
  · exact List.set_eq_of_length_le h
  · rfl

/-- A write of TXV_DATA while BUSY is 0 writes the cells as the port does, and nothing else (10_state.md R44). -/
theorem hostWrite_txvData {s : State} (hb : s.status.busy = false) {v : Word} {cells : List Cell}
    (hc : writeCellPort s.txm.cells s.txm.idx v = cells) :
    hostWrite 0x38 v s = .next { s with txm := { s.txm with cells := cells } } :=
  hc ▸ hostWrite_offset (r := .txvData) rfl hb v

theorem hostWrite_txvData_cell {s : State} (hb : s.status.busy = false) {v : Word} {c : Cell} (hc : Cell.ofWord v = some c) :
    hostWrite 0x38 v s = .next { s with txm := { s.txm with cells := s.txm.cells.set s.txm.idx.toNat c } } :=
  hostWrite_txvData hb (by simp [writeCellPort, hc])

theorem txmCount_toNat {s : State} (h : s.txm.cells.length ≤ 65535) : (hostRead 0x2C s).toNat = s.txm.cells.length := by
  change (s.txmCount.setWidth 32).toNat = _
  simp [State.txmCount]
  omega

/-- Settles O14, by the value port's laws. -/
theorem valuePortReadsAndWritesOneCell : Obligations.ValuePortReadsAndWritesOneCell := by
  intro s hlen
  refine ⟨txmCount_toNat hlen, fun hout => ⟨readCellPort_of_le hout, fun v hb => hostWrite_txvData hb (writeCellPort_of_le hout)⟩,
    fun c hc => ?_, fun v hb _ => ⟨fun h => ?_, fun h => ?_, fun h => ?_, fun h => hostWrite_txvData hb (writeCellPort_of_tag3 h)⟩,
    rfl, fun v hb => ?_, fun _ _ => rfl⟩
  · have hread : hostRead 0x38 s = c.toWord := readCellPort_of_getElem? hc
    rw [hread]
    exact c.toWord_fields
  · exact hostWrite_txvData_cell hb (by simp [Cell.ofWord, h])
  · exact hostWrite_txvData_cell hb (by simp [Cell.ofWord, h])
  · exact hostWrite_txvData_cell hb (by simp [Cell.ofWord, h])
  · rw [← BitVec.setWidth_eq_extractLsb' (by decide)]
    exact hostWrite_offset (r := .txvIdx) rfl hb v

end Sys2Proof.Machine
end

section
/-! PROOFS. A command's word decodes to the command, and a step in which the host presents it is its `exec`. -/

namespace Sys2Proof

/-- A row selects only words with its own operation code: no mask leaves a bit of it out (30_encoding.md R82). -/
theorem Row.op_of_selects {r : Row} {w : Word} (hr : r ∈ opcodeMap) (h : r.selects w = true) : r.value.setWidth 8 = w.setWidth 8 := by
  have hmask : ∀ q ∈ opcodeMap, q.mask.setWidth 8 = 0xFF#8 := by decide
  have hand : w &&& r.mask = r.value := by simpa [Row.selects] using h
  rw [← hand, BitVec.setWidth_and, hmask r hr]
  exact BitVec.and_allOnes

/-- A word whose operation code is one row's decodes by that row when the row selects it. -/
theorem decode_of_onlyRow {r : Row} {w : Word} (honly : opcodeMap.filter (fun q => q.value.setWidth 8 == w.setWidth 8) = [r])
    (h : r.selects w = true) : decode w = .ok (r.build w) := by
  have hmem : ∀ q, q ∈ opcodeMap ∧ q.value.setWidth 8 = w.setWidth 8 ↔ q = r := fun q => by
    rw [← List.mem_singleton (a := q) (b := r), ← honly, List.mem_filter, beq_iff_eq]
  unfold decode
  cases hf : opcodeMap.find? (·.selects w) with
  | none => exact absurd h (by simpa using List.find?_eq_none.mp hf r ((hmem r).mpr rfl).1)
  | some q =>
    have hq := List.mem_of_find?_eq_some hf
    obtain rfl := (hmem q).mp ⟨hq, Row.op_of_selects hq (List.find?_some (p := fun q : Row => q.selects w) hf)⟩
    rfl

theorem wordFI8_op (op imm : Byte) : (wordFI8 op imm).setWidth 8 = op := by
  ext k hk
  simp [wordFI8]

theorem wordFI16_op (op : Byte) (imm : Half) : (wordFI16 op imm).setWidth 8 = op := by
  ext k hk
  simp [wordFI16]

theorem imm8Of_wordFI8 (op imm : Byte) : imm8Of (wordFI8 op imm) = imm := by
  ext k hk
  simp [imm8Of, wordFI8, show 16 + k < 32 by omega, BitVec.getLsbD_of_ge op (16 + k) (by omega), hk]

theorem imm16Of_wordFI16 (op : Byte) (imm : Half) : imm16Of (wordFI16 op imm) = imm := by
  ext k hk
  simp [imm16Of, wordFI16, show 16 + k < 32 by omega, BitVec.getLsbD_of_ge op (16 + k) (by omega), hk]

/-- Format FI8 leaves nothing but the operation code outside IMM8 (30_encoding.md R81). -/
theorem wordFI8_mask (op imm : Byte) : wordFI8 op imm &&& 0xFF00FFFF#32 = op.setWidth 32 := by
  apply BitVec.eq_of_getLsbD_eq
  intro k hk
  simp only [wordFI8]
  interval_cases k <;> simp

/-- Format FI16 leaves nothing but the operation code outside IMM16 (30_encoding.md R81). -/
theorem wordFI16_mask (op : Byte) (imm : Half) : wordFI16 op imm &&& 0x0000FFFF#32 = op.setWidth 32 := by
  apply BitVec.eq_of_getLsbD_eq
  intro k hk
  simp only [wordFI16]
  interval_cases k <;> simp

theorem decode_wordFI8 {r : Row} {op : Byte} (honly : opcodeMap.filter (fun q => q.value.setWidth 8 == op) = [r])
    (hm : r.mask = 0xFF00FFFF#32) (hv : r.value = op.setWidth 32) (imm : Byte) :
    decode (wordFI8 op imm) = .ok (r.build (wordFI8 op imm)) :=
  decode_of_onlyRow (by rw [wordFI8_op, honly]) (by rw [Row.selects, hm, hv, wordFI8_mask, beq_self_eq_true])

theorem decode_wordFI16 {r : Row} {op : Byte} (honly : opcodeMap.filter (fun q => q.value.setWidth 8 == op) = [r])
    (hm : r.mask = 0x0000FFFF#32) (hv : r.value = op.setWidth 32) (imm : Half) :
    decode (wordFI16 op imm) = .ok (r.build (wordFI16 op imm)) :=
  decode_of_onlyRow (by rw [wordFI16_op, honly]) (by rw [Row.selects, hm, hv, wordFI16_mask, beq_self_eq_true])

/-- The word of a command decodes to it, with every operand (30_encoding.md R80 to R83, R87). -/
theorem decode_encode (i : Instr) : decode (encode i) = .ok i := by
  cases i with
  | crcUpdate imm => exact (decode_wordFI8 (op := 0x02#8) rfl rfl rfl imm).trans (by simp only [imm8Of_wordFI8])
  | classify imm => exact (decode_wordFI8 (op := 0x04#8) rfl rfl rfl imm).trans (by simp only [imm8Of_wordFI8])
  | setCount imm => exact (decode_wordFI16 (op := 0x05#8) rfl rfl rfl imm).trans (by simp only [imm16Of_wordFI16])
  | mbapFrame imm => exact (decode_wordFI16 (op := 0x0D#8) rfl rfl rfl imm).trans (by simp only [imm16Of_wordFI16])
  | decodeReq v | decodeRsp v | excTest v => cases v <;> rfl
  | _ => rfl

namespace Machine

/-- A host write at an offset of the interface is taken in the step, its turn used up (20_memory.md R72). -/
theorem step_of_write {s : State} {off : Nat} {v : Word} {rest : List Turn} (hs : s.env.script = .host (.write off v) :: rest)
    (hoff : off % 4 = 0) : step s = hostWrite off v (s.withScript rest) := by
  have hpop : popTurn s = s.withScript rest := by rw [popTurn_eq_withScript, hs, List.tail_cons]
  simp [step, takeTurn, hs, HostOp.inInterface, hoff, hostAccess, hpop]

/-- A command that the host presents is executed unless BUSY keeps it out (20_memory.md R66). -/
theorem runCommand_of_decode {s : State} {w : Word} {i : Instr} (hd : decode w = .ok i) (hb : s.status.busy = false ∨ w = closeWord) :
    runCommand w s = exec i s := by
  rcases runCommand_cases w s with ⟨hbusy, hw, -⟩ | ⟨-, ⟨e, he, -⟩ | ⟨j, hj, hr⟩⟩
  · rcases hb with hb | hb
    · simp [hb] at hbusy
    · exact absurd hb hw
  · cases hd.symm.trans he
  · cases hd.symm.trans hj
    exact hr

theorem step_of_presented {s : State} {w : Word} {i : Instr} {rest : List Turn} (hs : s.env.script = .host (.write 0 w) :: rest)
    (hd : decode w = .ok i) (hb : s.status.busy = false ∨ w = closeWord) : step s = exec i (s.withScript rest) :=
  (step_of_write hs rfl).trans (runCommand_of_decode hd hb)

/-- Settles O6; for `withFetchWord`, by `decode_encode`. -/
theorem stepRunsTheDecodedCommand : Obligations.StepRunsTheDecodedCommand := by
  refine ⟨fun s w i rest hs hd hb => step_of_presented hs hd hb, fun s i hb => ?_⟩
  have hs : (s.withFetchWord 32 (encode i).toNat).env.script = .host (.write 0 (encode i)) :: s.env.script := by
    simp [State.withFetchWord, Nat.mod_eq_of_lt (encode i).isLt]
  exact step_of_presented hs (decode_encode i) (.inl hb)

end Machine
end Sys2Proof
end

section
/-! PROOFS. The host's accesses: reads with the widths of their registers, writes that are dropped, ignored or taken, the data and length
registers of the buffers, and an access outside the interface. -/

namespace Sys2Proof.Machine

/-! ### Writes, by the access of the register -/

/-- While BUSY is 1 a write of a read-write register is dropped (20_memory.md R66). -/
theorem hostWrite_of_busy {off : Nat} (ha : (Reg.ofOffset off).map Reg.access = some .rw) {s : State} (hb : s.status.busy = true)
    (v : Word) : hostWrite off v s = .next (dropWrite s) := by
  obtain ⟨r, hr, hrw⟩ := Option.map_eq_some_iff.mp ha
  simp [hostWrite, hr, hrw, hb]

/-- A read-only register ignores a write, busy or not (20_memory.md R61). -/
theorem hostWrite_of_readOnly {off : Nat} (ha : (Reg.ofOffset off).map Reg.access = some .ro) (v : Word) (s : State) :
    hostWrite off v s = .next s := by
  obtain ⟨r, hr, hro⟩ := Option.map_eq_some_iff.mp ha
  simp [hostWrite, hr, hro]

theorem hostWrite_cmd (w : Word) (s : State) : hostWrite 0x00 w s = runCommand w s := rfl

theorem hostWrite_status (v : Word) (s : State) :
    hostWrite 0x04 v s = .next { s with status := { s.status with ovr := s.status.ovr && !v.getLsbD 2 } } :=
  congrArg Host.Outcome.next (writeStatus_eq v s)

theorem runCommand_of_busy {s : State} (hb : s.status.busy = true) {w : Word} (hw : w ≠ closeWord) :
    runCommand w s = .next (dropWrite s) :=
  if_pos ⟨hb, hw⟩

theorem runCommand_of_illegal {s : State} (hb : s.status.busy = false) {w : Word} {e : IllegalWord} (hd : decode w = .error e) :
    runCommand w s = .next (finish .illegalCommand s) := by
  simp [runCommand, hb, hd]

/-- Settles O7: the 14 offsets are the read-write registers', and CLOSE passes `runCommand`. -/
theorem busyBlockDropsHostWrites : Obligations.BusyBlockDropsHostWrites := by
  have hrw : ∀ off ∈ [0x10, 0x20, 0x24, 0x28, 0x30, 0x34, 0x38, 0x3C, 0x40, 0x44, 0x48, 0x4C, 0x50, 0x70],
      (Reg.ofOffset off).map Reg.access = some .rw := by decide
  refine fun s hb => ⟨fun w hw => runCommand_of_busy hb hw, fun off hoff v => hostWrite_of_busy (hrw off hoff) hb v, fun v hv => ?_,
    runCommand_of_decode decode_closeWord (.inr rfl)⟩
  rw [hostWrite_status, hv]
  simp

@[simp] theorem writeReg_status (r : Reg) (v : Word) (s : State) : (writeReg r v s).status = s.status := by
  cases r <;> rfl

/-- Only a command writes RESULT: of the writes elsewhere none reaches further into STATUS than OVR. -/
theorem hostWrite_result {off : Nat} (hoff : off ≠ 0) {v : Word} {s t : State} (h : hostWrite off v s = .next t) :
    t.status.result = s.status.result := by
  rcases hostWrite_cases off v s with he | ⟨-, he⟩ | ⟨-, he⟩ | ⟨r, -, -, he⟩ | ⟨rfl, -⟩
  · cases h.symm.trans he; rfl
  · cases h.symm.trans he; rw [writeStatus_eq]
  · cases h.symm.trans he; rfl
  · cases h.symm.trans he; rw [writeReg_status]
  · exact absurd rfl hoff

/-- Settles O11: a taken write is `writeReg` of the register at the offset. -/
theorem registerWritesTakeTheirFieldBits : Obligations.RegisterWritesTakeTheirFieldBits := by
  have hro : ∀ off ∈ [0x08, 0x0C, 0x14, 0x18, 0x1C, 0x2C, 0x54, 0x58, 0x5C, 0x60, 0x64, 0x68, 0x6C, 0x74, 0x78, 0x7C],
      (Reg.ofOffset off).map Reg.access = some .ro := by decide
  intro s v
  refine ⟨fun hb => ?_, hostWrite_status v s, fun off hoff => hostWrite_of_readOnly (hro off hoff) v s,
    fun off hoff => (reservedOffsetsReadZeroAndIgnoreWrites s off v hoff).2, fun off t hoff h => hostWrite_result hoff h⟩
  have taken : ∀ r : Reg, r.access = .rw → hostWrite r.offset v s = .next (writeReg r v s) := fun r hr => hostWrite_offset hr hb v
  have hhalf : v.extractLsb' 0 16 = v.setWidth 16 := (BitVec.setWidth_eq_extractLsb' (by decide)).symm
  have hbyte : v.extractLsb' 0 8 = v.setWidth 8 := (BitVec.setWidth_eq_extractLsb' (by decide)).symm
  rw [hhalf, hbyte]
  exact ⟨taken .tidNext rfl, taken .txmSid rfl, taken .txmFc rfl, taken .txmAddr rfl, taken .txmErr rfl, taken .txvIdx rfl,
    taken .txbIdx rfl, taken .accIdx rfl, taken .rxvIdx rfl, taken .txvData rfl, taken .txbLen rfl, taken .txbData rfl,
    taken .accLen rfl, taken .accData rfl, fun i hd => runCommand_of_decode hd (.inl hb), fun e hd => runCommand_of_illegal hb hd⟩

/-! ### The buffers' data ports and length registers -/

theorem Buf.readPort_eq (b : Buf) :
    b.readPort = if h : b.idx.toNat < b.bytes.length then b.bytes[b.idx.toNat].setWidth 32 else 0#32 := by
  unfold Buf.readPort byteAt
  split
  · rename_i h
    rw [List.getD_eq_getElem _ _ h]
  · rename_i h
    rw [List.getD_eq_default _ _ (by omega)]
    rfl

theorem Buf.writePort_eq (b : Buf) (v : Word) : b.writePort v = { b with bytes := b.bytes.set b.idx.toNat (v.extractLsb' 0 8) } := by
  rw [Buf.writePort, BitVec.setWidth_eq_extractLsb' (by decide)]

theorem Buf.writePort_of_le {b : Buf} (h : b.bytes.length ≤ b.idx.toNat) (v : Word) : b.writePort v = b := by
  rw [Buf.writePort, List.set_eq_of_length_le h]

theorem hostWrite_txbData {s : State} (hb : s.status.busy = false) (v : Word) :
    hostWrite 0x44 v s = .next { s with txb := s.txb.writePort v } :=
  hostWrite_offset (r := .txbData) rfl hb v

theorem hostWrite_accData {s : State} (hb : s.status.busy = false) (v : Word) :
    hostWrite 0x50 v s = .next { s with acc := s.acc.writePort v } :=
  hostWrite_offset (r := .accData) rfl hb v

/-- Settles O12, by the laws of a buffer's port. -/
theorem bufferPortsReadAndWriteOneByte : Obligations.BufferPortsReadAndWriteOneByte := by
  refine fun s => ⟨s.txb.readPort_eq, s.acc.readPort_eq, fun v hb => ?_⟩
  rw [hostWrite_txbData hb, hostWrite_accData hb]
  refine ⟨fun _ => ?_, fun h => ?_, fun _ => ?_, fun h => ?_⟩
  · rw [Buf.writePort_eq]
  · rw [Buf.writePort_of_le h]
  · rw [Buf.writePort_eq]
  · rw [Buf.writePort_of_le h]

theorem cappedLength_some (c n : Nat) : cappedLength (some c) n = min c n := by
  simp only [cappedLength]
  split <;> omega

theorem wordOfLength_toNat {n : Nat} (h : n < 2 ^ 32) : (wordOfLength n).toNat = n := by
  rw [wordOfLength, if_pos h, BitVec.toNat_ofNat, Nat.mod_eq_of_lt h]

/-- Settles O13: a length write is `Buf.resize`, for ACC with the capped length. -/
theorem lengthWritesResizeTheBuffer : Obligations.LengthWritesResizeTheBuffer := by
  refine ⟨fun s v hb => hostWrite_offset (r := .txbLen) rfl hb v, fun s v n hb hn => ?_, fun s h => wordOfLength_toNat h,
    fun s h => wordOfLength_toNat h⟩
  have hcap : n = cappedLength s.params.accCap v.toNat := by
    rw [hn]
    cases s.params.accCap with
    | none => rfl
    | some c => exact (cappedLength_some c _).symm
  rw [hcap]
  exact hostWrite_offset (r := .accLen) rfl hb v

/-! ### Reads, by the width of the register -/

theorem setWidth_toNat_lt {n : Nat} (x : BitVec n) : (x.setWidth 32).toNat < 2 ^ n := by
  rw [BitVec.toNat_setWidth]
  exact (Nat.mod_le _ _).trans_lt x.isLt

/-- A tag that fits bits 17:16 above a data field stays within 18 bits (30_encoding.md R105). -/
theorem tagged_toNat_lt {tag : Word} (h : tag.toNat < 2 ^ 18) (data : Half) : (tag ||| data.setWidth 32).toNat < 2 ^ 18 := by
  rw [BitVec.toNat_or]
  exact Nat.or_lt_two_pow h ((setWidth_toNat_lt data).trans (by decide))

theorem Cell.toWord_toNat_lt (c : Cell) : c.toWord.toNat < 2 ^ 18 := by
  cases c with
  | bit b => cases b <;> decide
  | word w => exact tagged_toNat_lt (by decide) w
  | raw r => exact tagged_toNat_lt (by decide) r

theorem readCellPort_toNat_lt (cells : List Cell) (idx : Half) : (readCellPort cells idx).toNat < 2 ^ 18 := by
  unfold readCellPort
  split
  · exact Cell.toWord_toNat_lt _
  · decide

theorem classWord_getLsbD (c : ClassReg) {k : Nat} (hk : k < 32) :
    (classWord c).getLsbD k =
      (!decide (k < 8) && c.fc.getLsbD (k - 8) || !decide (k < 4) && c.rcat.code.getLsbD (k - 4) || c.ftype.code.getLsbD k) := by
  simp only [classWord, BitVec.getLsbD_or, fieldAt_getLsbD, hk]
  simp

theorem classWord_fc (c : ClassReg) : (classWord c).extractLsb' 8 8 = c.fc := by
  refine extractLsb'_eq_of_getLsbD fun k hk => ?_
  rw [classWord_getLsbD c (by omega)]
  interval_cases k <;> simp

theorem classWord_outside (c : ClassReg) : classWord c &&& 0xFFFF0088#32 = 0#32 := by
  refine BitVec.eq_of_getLsbD_eq fun k hk => ?_
  rw [BitVec.getLsbD_and, classWord_getLsbD c hk]
  interval_cases k <;> simp

theorem classWord_toNat_lt (c : ClassReg) : (classWord c).toNat < 2 ^ 16 := by
  refine Nat.lt_pow_two_of_testBit _ fun k hk => ?_
  rw [BitVec.testBit_toNat]
  by_cases hword : k < 32
  · rw [classWord_getLsbD c hword]
    interval_cases k <;> simp
  · exact BitVec.getLsbD_of_ge _ _ (by omega)

theorem statusWord_outside (st : Status) : statusWord st &&& 0x0000F880#32 = 0#32 := by
  refine BitVec.eq_of_getLsbD_eq fun k hk => ?_
  rw [BitVec.getLsbD_and, statusWord_getLsbD st hk]
  interval_cases k <;> simp

/-- The column "width used" of 10_state.md R51. -/
def Reg.width : Reg → Nat
  | .cmd | .status | .reads | .txbLen | .txbIdx | .accLen | .accIdx | .rxStart | .rxLen => 32
  | .txvData | .rxvData => 18
  | .cls | .crc | .tidNext | .tidOut | .tidRx | .txmAddr | .txmCount | .txvIdx => 16
  | .rxmAddr | .rxmCount | .rxmVlen | .rxvIdx => 16
  | .txmSid | .txmFc | .txmErr | .txbData | .accData | .rxmSid | .rxmFc | .rxmErr => 8
  | .rxmKind => 2

/-- A register reads 0 above its width (20_memory.md R62). -/
theorem readReg_toNat_lt (r : Reg) (s : State) : (readReg r s).toNat < 2 ^ r.width := by
  cases r with
  | cls => exact classWord_toNat_lt s.cls
  | txvData => exact readCellPort_toNat_lt s.txm.cells s.txm.idx
  | rxvData => exact readCellPort_toNat_lt s.rx.cells s.rx.idx
  | cmd | status | reads | txbLen | txbIdx | accLen | accIdx | rxStart | rxLen => exact BitVec.isLt _
  | _ => exact setWidth_toNat_lt _

theorem hostRead_toNat_lt {off n : Nat} (hw : (Reg.ofOffset off).map Reg.width = some n) (s : State) :
    (hostRead off s).toNat < 2 ^ n := by
  obtain ⟨r, hr, rfl⟩ := Option.map_eq_some_iff.mp hw
  obtain rfl := Reg.offset_of_ofOffset hr
  rw [hostRead_offset]
  exact readReg_toNat_lt r s

/-- A host read at an offset of the interface uses up its turn and gives the host the value (20_memory.md R62, R72). -/
theorem step_of_read {s : State} {off : Nat} {rest : List Turn} (hs : s.env.script = .host (.read off) :: rest)
    (hoff : off % 4 = 0) :
    step s = .next { s with env := { s.env with
      script := rest
      hostReads := s.env.hostReads ++ [(off, hostRead off s)] } } := by
  have hpop : popTurn s = s.withScript rest := by rw [popTurn_eq_withScript, hs, List.tail_cons]
  have hread : hostRead off (s.withScript rest) = hostRead off s := rfl
  simp only [step, takeTurn, hs, HostOp.inInterface, hoff, beq_self_eq_true, if_true, hostAccess, hpop, hread]
  rfl

theorem rxmVlen_toNat {s : State} (h : s.rx.cells.length ≤ 65535) : (hostRead 0x68 s).toNat = s.rx.cells.length := by
  change ((BitVec.ofNat 16 s.rx.cells.length).setWidth 32).toNat = _
  simp
  omega

/-- Settles O8, by the width of each register and the laws of a cell port. -/
theorem hostReadsReturnFieldsAndChangeNothing : Obligations.HostReadsReturnFieldsAndChangeNothing := by
  have hwidth : ∀ p ∈ [(0x0C, 16), (0x10, 16), (0x14, 16), (0x18, 16), (0x20, 8), (0x24, 8), (0x28, 16), (0x2C, 16), (0x30, 8),
      (0x34, 16), (0x38, 18), (0x44, 8), (0x50, 8), (0x54, 2), (0x58, 8), (0x5C, 8), (0x60, 16), (0x64, 16), (0x68, 16), (0x6C, 8),
      (0x70, 16), (0x74, 18)], (Reg.ofOffset p.1).map Reg.width = some p.2 := by decide
  refine ⟨fun s off rest hs hoff => step_of_read hs hoff, fun s => ⟨rfl, statusWord_outside s.status, classWord_outside s.cls⟩,
    fun s p hp => hostRead_toNat_lt (hwidth p hp) s, fun s => ?_,
    fun s hlen => ⟨rxmVlen_toNat hlen, fun hout => readCellPort_of_le hout, fun c hc => ?_⟩⟩
  · refine ⟨classWord_fc s.cls, rfl, rfl, rfl, rfl, rfl, rfl, rfl, rfl, rfl, rfl, rfl, rfl, rfl, rfl, rfl, rfl, rfl, rfl, rfl, rfl, ?_⟩
    have hread : hostRead 0x54 s = (kindCode s.rx.kind).setWidth 32 := rfl
    rw [hread]
    rcases s.rx.kind with _ | k
    · rfl
    · cases k <;> rfl
  · have hread : hostRead 0x74 s = c.toWord := readCellPort_of_getElem? hc
    rw [hread]
    exact c.toWord_fields

/-! ### Accesses outside the interface -/

/-- An access outside the interface leaves the step to the engine, if it has one (20_memory.md R63). -/
theorem step_of_outside {s : State} {op : HostOp} {rest : List Turn} (hs : s.env.script = .host op :: rest)
    (hop : op.inInterface = false) : step s = if engineEnabled s.status then readStep s else .fault .hostStuck := by
  simp [step, takeTurn, hs, hop]

/-- Settles O15: none of the three accesses is inside the interface. -/
theorem accessOutsideTheInterfaceIsStuck : Obligations.AccessOutsideTheInterfaceIsStuck := by
  intro s op rest hs hop
  have hout : op.inInterface = false := by
    rcases hop with ⟨width, off, rfl⟩ | ⟨off, hoff, rfl⟩ | ⟨off, v, hoff, rfl⟩
    · rfl
    · simpa [HostOp.inInterface] using hoff
    · simpa [HostOp.inInterface] using hoff
  rw [step_of_outside hs hout]
  exact ⟨fun h => by simp [h], fun h => by simp [h]⟩

end Sys2Proof.Machine
end

section
/-! PROOFS. Every command finishes at once but an AWAIT_* on an open connection, and no step stops while the environment keeps its side. -/

namespace Sys2Proof.Machine

/-! ### Commands finish at once -/

/-- A command has finished unless it has started an exchange; only an exchange touches LASTERR, and no command OVR. -/
theorem Effect.finished {s t : State} {i : Instr} (h : Effect s i t)
    (hi : (i ≠ .awaitResponse ∧ i ≠ .awaitRequest) ∨ s.status.isOpen = false) :
    t.status.busy = false ∧ t.status.done = true ∧ t.status.ovr = s.status.ovr ∧ t.status.lastErr = s.status.lastErr := by
  cases h with
  | awaited _ hawait hopen =>
    rcases hi with ⟨hrsp, hreq⟩ | hclosed
    · exact absurd hawait (not_or.mpr ⟨hrsp, hreq⟩)
    · cases hclosed.symm.trans hopen
  | _ => exact ⟨rfl, rfl, rfl, rfl⟩

/-- Settles O58, by the effect of the command; CLOSE reports whatever it finds. -/
theorem commandsOtherThanAwaitFinishAtOnce : Obligations.CommandsOtherThanAwaitFinishAtOnce := by
  intro i s hi
  by_cases hc : i = .close
  · subst hc
    exact ⟨closeConnection s, rfl, by simp [closeConnection_eq]⟩
  · obtain ⟨t, ht⟩ := exec_next i s
    exact ⟨t, ht, (exec_effect hc ht).finished hi⟩

/-! ### What a step leaves to come -/

/-- The turns and read answers to come are among the ones there were: what a step leaves of the environment's side. -/
structure Env.LeavesOf (e' e : Env) : Prop where
  script : e'.script ⊆ e.script
  readAnswers : e'.readAnswers ⊆ e.readAnswers

theorem Env.inContract_iff (e : Env) :
    e.inContract = true ↔ (∀ turn ∈ e.script, turn.inInterface = true) ∧ ∀ a ∈ e.readAnswers, a.wf = true := by
  simp [Env.inContract]

theorem Env.LeavesOf.inContract {e' e : Env} (h : e'.LeavesOf e) (he : e.inContract = true) : e'.inContract = true := by
  rw [Env.inContract_iff] at he ⊢
  exact ⟨fun turn ht => he.1 turn (h.script ht), fun a ha => he.2 a (h.readAnswers ha)⟩

theorem Env.LeavesOf.refl (e : Env) : e.LeavesOf e := ⟨List.Subset.refl _, List.Subset.refl _⟩

theorem Env.LeavesOf.trans {e₁ e₂ e₃ : Env} (h : e₁.LeavesOf e₂) (h' : e₂.LeavesOf e₃) : e₁.LeavesOf e₃ :=
  ⟨List.Subset.trans h.script h'.script, List.Subset.trans h.readAnswers h'.readAnswers⟩

variable {s t : State}

theorem popTurn_leaves (s : State) : (popTurn s).env.LeavesOf s.env := ⟨List.tail_subset _, List.Subset.refl _⟩

theorem chanRead_leaves (s : State) : (chanRead s).env.LeavesOf s.env := ⟨List.Subset.refl _, List.tail_subset _⟩

theorem ReadOutcome.env_eq (h : ReadOutcome s t) : t.env = (chanRead s).env := by
  cases h <;> rfl

theorem Effect.leaves {i : Instr} (h : Effect s i t) : t.env.LeavesOf s.env := by
  cases h <;> exact ⟨List.Subset.refl _, List.Subset.refl _⟩

theorem closeConnection_leaves (s : State) : (closeConnection s).env.LeavesOf s.env := by
  rw [closeConnection_eq]
  cases s.closeIssued <;> exact ⟨List.Subset.refl _, List.Subset.refl _⟩

theorem exec_leaves {i : Instr} (h : exec i s = .next t) : t.env.LeavesOf s.env := by
  by_cases hc : i = .close
  · subst hc
    cases h
    exact closeConnection_leaves s
  · exact (exec_effect hc h).leaves

theorem runCommand_leaves {w : Word} (h : runCommand w s = .next t) : t.env.LeavesOf s.env := by
  rcases runCommand_cases w s with ⟨-, -, hr⟩ | ⟨-, ⟨-, -, hr⟩ | ⟨i, -, hr⟩⟩ <;> rw [hr] at h
  · cases h; exact .refl _
  · cases h; exact .refl _
  · exact exec_leaves h

@[simp] theorem writeReg_env (r : Reg) (v : Word) (s : State) : (writeReg r v s).env = s.env := by
  cases r <;> rfl

theorem hostWrite_leaves {off : Nat} {v : Word} (h : hostWrite off v s = .next t) : t.env.LeavesOf s.env := by
  rcases hostWrite_cases off v s with hw | ⟨-, hw⟩ | ⟨-, hw⟩ | ⟨r, -, -, hw⟩ | ⟨-, hw⟩ <;> rw [hw] at h
  · cases h; exact .refl _
  · cases h; rw [writeStatus_eq]; exact .refl _
  · cases h; exact .refl _
  · cases h; rw [writeReg_env]; exact .refl _
  · exact runCommand_leaves h

/-- No step lists a turn or a read answer. -/
theorem step_leaves (h : step s = .next t) : t.env.LeavesOf s.env := by
  rcases step_cases h with ⟨u, hu, -, hr⟩ | ⟨-, rfl | rfl⟩ | ⟨rest, -, rfl⟩ | ⟨off, rest, -, -, rfl⟩ | ⟨off, v, rest, -, -, hw⟩
  · have hus : u.env.LeavesOf s.env := by
      rcases hu with rfl | rfl
      · exact .refl _
      · exact popTurn_leaves s
    rw [(readStep_outcome hr).env_eq]
    exact (chanRead_leaves u).trans hus
  · exact .refl _
  · exact popTurn_leaves s
  · exact popTurn_leaves s
  · obtain ⟨hscript, hanswers⟩ := popTurn_leaves s
    exact ⟨hscript, hanswers⟩
  · exact (hostWrite_leaves hw).trans (popTurn_leaves s)

/-! ### Every step answers -/

/-- A free read answer has its shape (44_connection.md R212). -/
theorem FreeRead.toAnswer_wf (f : FreeRead) : f.toAnswer.wf = true := by
  cases f with
  | data first rest => simp [FreeRead.toAnswer, ReadAnswer.wf, Config.readChunk]
  | closed | timedOut | ioError => rfl

theorem readAnswer_wf (h : ∀ a ∈ s.env.readAnswers, a.wf = true) : (readAnswer s).wf = true := by
  unfold readAnswer
  split
  · rename_i a as ha
    exact h a (by simp [ha])
  · exact FreeRead.toAnswer_wf _

/-- The engine's turn answers: its read step gets an answer in its shape, or it has no step (log 13). -/
theorem engineTurn_next (h : ∀ a ∈ s.env.readAnswers, a.wf = true) : ∃ t, engineTurn s = .next t := by
  unfold engineTurn
  split
  · exact ⟨_, if_pos (readAnswer_wf h)⟩
  · exact ⟨s, rfl⟩

theorem hostAccess_next {op : HostOp} (h : op.inInterface = true) (s : State) : ∃ t, hostAccess op s = .next t := by
  cases op with
  | read off => exact ⟨_, rfl⟩
  | write off v => exact hostWrite_next off v s
  | subword width off => simp [HostOp.inInterface] at h

/-- Inside the interface the agent whose turn it is has a step. -/
theorem step_next (h : s.env.inContract = true) : ∃ t, step s = .next t := by
  obtain ⟨hturns, hanswers⟩ := (Env.inContract_iff _).mp h
  unfold step takeTurn
  split
  · exact engineTurn_next hanswers
  · exact engineTurn_next hanswers
  · exact ⟨_, rfl⟩
  · rename_i op rest hs
    have hop : op.inInterface = true := hturns (.host op) (by simp [hs])
    rw [if_pos hop]
    exact hostAccess_next hop _

/-- Settles O20: the step answers, and what it leaves to come was there before. -/
theorem stepsInsideTheInterfaceNeverStop : Obligations.StepsInsideTheInterfaceNeverStop := by
  intro s h
  obtain ⟨t, ht⟩ := step_next h
  exact ⟨t, ht, (step_leaves ht).inContract h⟩

end Sys2Proof.Machine
end

section
/-! PROOFS. The opcode map: no word matches two rows, the decoder answers the one that matches, and no bit of a legal word is lost. -/

namespace Sys2Proof

/-! ### The rows of the opcode map -/

/-- What a row fixes of a word: every bit its mask holds. -/
theorem Row.getLsbD_of_selects {r : Row} {w : Word} (h : r.selects w = true) {k : Nat} (hk : r.mask.getLsbD k = true) :
    w.getLsbD k = r.value.getLsbD k := by
  rw [← eq_of_beq h, BitVec.getLsbD_and, hk, Bool.and_true]

/-- The row selects no word with a bit set in the `n` bits from `pos` on. -/
def Row.zeroOn (r : Row) (pos n : Nat) : Prop :=
  ∀ k < n, r.mask.getLsbD (pos + k) = true ∧ r.value.getLsbD (pos + k) = false

theorem Row.zeroOn.getLsbD_eq {r : Row} {pos n : Nat} (hz : r.zeroOn pos n) {w : Word} (h : r.selects w = true) {k : Nat} (hk : k < n) :
    w.getLsbD (pos + k) = false :=
  (Row.getLsbD_of_selects h (hz k hk).1).trans (hz k hk).2

theorem Row.zeroOn.extractLsb'_eq {r : Row} {pos n : Nat} (hz : r.zeroOn pos n) {w : Word} (h : r.selects w = true) :
    w.extractLsb' pos n = 0#n :=
  Machine.extractLsb'_eq_of_getLsbD fun k hk => by rw [hz.getLsbD_eq h hk, BitVec.getLsbD_zero]

/-- No row has an operation code of 0x17 or more, and the bits that no operand of its format takes are 0 (30_encoding.md R80, R81, R84). -/
theorem opcodeMap_unused : ∀ r ∈ opcodeMap,
    r.value.setWidth 8 < 0x17#8 ∧ r.zeroOn 9 3 ∧ r.zeroOn 13 3 ∧
    (r.value.setWidth 8 ∉ [0x09#8, 0x0A#8, 0x0B#8] → r.zeroOn 8 1) ∧
    (r.value.setWidth 8 ∉ [0x03#8, 0x10#8] → r.zeroOn 12 1) ∧
    (r.value.setWidth 8 ∉ [0x02#8, 0x04#8, 0x05#8, 0x0D#8] → r.zeroOn 16 8) ∧
    (r.value.setWidth 8 ∉ [0x05#8, 0x0D#8] → r.zeroOn 24 8) := by
  unfold Row.zeroOn
  decide

/-- Any two rows differ in a bit that both their masks hold (30_encoding.md R82). -/
theorem opcodeMap_disjoint : opcodeMap.Pairwise fun r q => r.value &&& q.mask ≠ q.value &&& r.mask := by
  decide

/-- A word that two rows select shows the same bits under both masks. -/
theorem Row.value_mask_comm {r q : Row} {w : Word} (hr : r.selects w = true) (hq : q.selects w = true) :
    r.value &&& q.mask = q.value &&& r.mask := by
  rw [← eq_of_beq hr, ← eq_of_beq hq, BitVec.and_assoc, BitVec.and_assoc, BitVec.and_comm r.mask]

theorem Row.eq_of_selects {r q : Row} {w : Word} (hr : r ∈ opcodeMap) (hq : q ∈ opcodeMap) (hrw : r.selects w = true)
    (hqw : q.selects w = true) : r = q := by
  by_contra hne
  have hsymm : Std.Symm fun r q : Row => r.value &&& q.mask ≠ q.value &&& r.mask := ⟨fun _ _ h => h.symm⟩
  exact opcodeMap_disjoint.forall hr hq hne (Row.value_mask_comm hrw hqw)

/-- The matching rows are counted by place, so that a row written twice in the map would count twice. -/
theorem filter_selects_length_le_one (w : Word) : (opcodeMap.filter (·.selects w)).length ≤ 1 := by
  by_contra hlen
  have hne := List.pairwise_iff_getElem.mp (opcodeMap_disjoint.filter (·.selects w)) 0 1 (by omega) (by omega) Nat.zero_lt_one
  have hsel : ∀ r ∈ opcodeMap.filter (·.selects w), r.selects w = true := fun r hr => (List.mem_filter.mp hr).2
  exact hne (Row.value_mask_comm (hsel _ (List.getElem_mem _)) (hsel _ (List.getElem_mem _)))

/-- What the decoder answers, with the row it read or with none (30_encoding.md R83). -/
theorem decode_cases (w : Word) :
    (∃ r ∈ opcodeMap, r.selects w = true ∧ decode w = .ok (r.build w)) ∨
    ((∀ r ∈ opcodeMap, r.selects w = false) ∧ ∃ e, decode w = .error e) := by
  unfold decode
  cases hf : opcodeMap.find? (·.selects w) with
  | none => exact .inr ⟨by simpa using hf, _, rfl⟩
  | some r => exact .inl ⟨r, List.mem_of_find?_eq_some hf, List.find?_some (p := fun r : Row => r.selects w) hf, rfl⟩

theorem decode_of_selects {r : Row} {w : Word} (hr : r ∈ opcodeMap) (h : r.selects w = true) : decode w = .ok (r.build w) := by
  obtain ⟨q, hq, hqw, hd⟩ | ⟨hno, -⟩ := decode_cases w
  · rwa [Row.eq_of_selects hr hq h hqw]
  · exact absurd h (by simp [hno r hr])

theorem decode_of_no_row {w : Word} (h : ∀ r ∈ opcodeMap, r.selects w = false) : ∃ e, decode w = .error e := by
  obtain ⟨r, hr, hrw, -⟩ | ⟨-, he⟩ := decode_cases w
  · exact absurd hrw (by simp [h r hr])
  · exact he

/-! ### The word of a row's command -/

theorem wordFI8_imm8Of (op : Byte) (w : Word) : wordFI8 op (imm8Of w) = op.setWidth 32 ||| (w &&& 0x00FF0000#32) := by
  apply BitVec.eq_of_getLsbD_eq
  intro k hk
  simp only [wordFI8, imm8Of]
  interval_cases k <;> simp

theorem wordFI16_imm16Of (op : Byte) (w : Word) : wordFI16 op (imm16Of w) = op.setWidth 32 ||| (w &&& 0xFFFF0000#32) := by
  apply BitVec.eq_of_getLsbD_eq
  intro k hk
  simp only [wordFI16, imm16Of]
  interval_cases k <;> simp

theorem wordFV_vOf (op : Byte) (w : Word) : wordFV op (vOf w) = op.setWidth 32 ||| (w &&& 0x00000100#32) := by
  have hmask : (if vOf w then 0x100#32 else 0#32) = w &&& 0x00000100#32 := by
    apply BitVec.eq_of_getLsbD_eq
    intro k hk
    have hbit : vOf w = w[8] := rfl
    rw [hbit]
    cases hv : w[8] <;> interval_cases k <;> simp [hv]
  rw [wordFV, hmask, BitVec.or_comm]

theorem vOf_wordFV (op : Byte) (v : Bool) : vOf (wordFV op v) = v := by
  cases v <;> simp [vOf, wordFV]

/-- The command a row reads from a word takes its operand from the bits outside the mask, and its word carries them back there. -/
theorem encode_build {r : Row} (hr : r ∈ opcodeMap) (w : Word) : encode (r.build w) = r.value ||| (w &&& ~~~r.mask) := by
  revert r
  simp [opcodeMap, opcodeMapLow, opcodeMapMid, opcodeMapHigh, encode, wordFI8_imm8Of, wordFI16_imm16Of, wordFV_vOf, wordF0]

theorem encode_of_decode {w : Word} {i : Instr} (h : decode w = .ok i) : encode i = w := by
  obtain ⟨r, hr, hw, hd⟩ | ⟨-, e, he⟩ := decode_cases w
  · obtain rfl : r.build w = i := Except.ok.inj (hd.symm.trans h)
    calc
      encode (r.build w) = r.value ||| (w &&& ~~~r.mask) := encode_build hr w
      _ = (w &&& r.mask) ||| (w &&& ~~~r.mask) := by rw [eq_of_beq hw]
      _ = w := by rw [← BitVec.and_or_distrib_left, BitVec.or_not_self, BitVec.and_allOnes]
  · cases h.symm.trans he

namespace Machine

/-- Settles O2: each format's operand is read back from where its word carries it. -/
theorem decodeOfEncodeGivesTheCommand : Obligations.DecodeOfEncodeGivesTheCommand := decode_encode

/-- Settles O3: the operand of a command is exactly what its row's mask leaves out of the word. -/
theorem encodeOfDecodeGivesTheWord : Obligations.EncodeOfDecodeGivesTheWord := fun _ _ h => encode_of_decode h

/-- Settles O4: two rows that match would agree where both their masks hold, and no two do. -/
theorem atMostOneRowMatchesAWord : Obligations.AtMostOneRowMatchesAWord := filter_selects_length_le_one

/-- Settles O1: the nine legal words are their commands' own, and each illegal one finds no row. -/
theorem sampleWordsDecodeToTheirCommands : Obligations.SampleWordsDecodeToTheirCommands :=
  ⟨decode_encode .nop, decode_encode (.crcUpdate 0x11#8), decode_encode .crcSpanAcc, decode_encode (.classify 0x03#8),
    decode_encode (.setCount 0xFFFF#16), decode_encode (.decodeRsp true), decode_encode (.mbapFrame 0x0001#16), decode_encode .openTcp,
    decode_encode .awaitResponse, rfl, rfl, rfl⟩

/-- Settles O5: where a row selects the word, each listed bit is one of its zeros, and the operands are read back from the command's word. -/
theorem commandDecodeSelectsTheRowOrReportsIllegal : Obligations.CommandDecodeSelectsTheRowOrReportsIllegal := by
  refine ⟨fun w r hr hw => decode_of_selects hr (beq_iff_eq.mpr hw), fun s w rest hno hs hb => ?_, fun w hbits r hr hw => ?_, ?_, ?_, ?_⟩
  · obtain ⟨e, he⟩ := decode_of_no_row fun r hr => beq_eq_false_iff_ne.mpr (hno r hr)
    rw [step_of_write hs rfl, hostWrite_cmd, runCommand_of_illegal (s := s.withScript rest) hb he]
    simp [finish, State.withScript, hb]
  · have hsel : r.selects w = true := beq_iff_eq.mpr hw
    obtain ⟨hop, h9, h13, h8, h12, h16, h24⟩ := opcodeMap_unused r hr
    have heq : w.extractLsb' 0 8 = r.value.setWidth 8 :=
      (BitVec.setWidth_eq_extractLsb' (by decide)).symm.trans (Row.op_of_selects hr hsel).symm
    rw [heq] at hbits
    rcases hbits with hge | hne | hne | ⟨hset, hin⟩ | ⟨hset, hin⟩ | ⟨hne, hin⟩ | ⟨hne, hin⟩
    · exact absurd hop (BitVec.not_lt.mpr hge)
    · exact hne (h9.extractLsb'_eq hsel)
    · exact hne (h13.extractLsb'_eq hsel)
    · cases hset.symm.trans ((h8 hin).getLsbD_eq hsel Nat.zero_lt_one)
    · cases hset.symm.trans ((h12 hin).getLsbD_eq hsel Nat.zero_lt_one)
    · exact hne ((h16 hin).extractLsb'_eq hsel)
    · exact hne ((h24 hin).extractLsb'_eq hsel)
  · rintro w b (h | h) <;> exact (imm8Of_wordFI8 _ b).symm.trans (congrArg imm8Of (encode_of_decode h))
  · rintro w n (h | h) <;> exact (imm16Of_wordFI16 _ n).symm.trans (congrArg imm16Of (encode_of_decode h))
  · rintro w v (h | h | h) <;> exact (vOf_wordFV _ v).symm.trans (congrArg vOf (encode_of_decode h))

end Machine
end Sys2Proof
end

section
/-! PROOFS. Packed booleans keep their order, and the sizes of encoded bodies are bounded. -/

namespace Sys2Proof.Machine

/-! ### Packed booleans -/

theorem packByte_cons (b : Bool) (bs : List Bool) : packByte (b :: bs) = Nat.bit b (packByte bs) := by
  cases b <;> simp [packByte, Nat.bit, Nat.add_comm]

theorem packByte_testBit (bs : List Bool) (k : Nat) : (packByte bs).testBit k = bs.getD k false := by
  induction bs generalizing k with
  | nil => simp [packByte]
  | cons b bs ih =>
    rw [packByte_cons]
    cases k with
    | zero => simp
    | succ k => rw [Nat.testBit_bit_succ, ih, List.getD_cons_succ]

theorem packByte_take_getLsbD (bs : List Bool) {k : Nat} (hk : k < 8) :
    (BitVec.ofNat 8 (packByte (bs.take 8))).getLsbD k = bs.getD k false := by
  rw [BitVec.getLsbD_ofNat, packByte_testBit]
  simp [hk]

theorem packBytes_getLsbD {n : Nat} (bs : List Bool) {j : Nat} (hj : j < n) {k : Nat} (hk : k < 8) :
    (byteAt (packBytes n bs) j).getLsbD k = bs.getD (8 * j + k) false := by
  induction n generalizing bs j with
  | zero => omega
  | succ n ih =>
    cases j with
    | zero =>
      rw [Nat.mul_zero, Nat.zero_add]
      exact packByte_take_getLsbD bs hk
    | succ j =>
      have hrest : (byteAt (packBytes (n + 1) bs) (j + 1)).getLsbD k = (byteAt (packBytes n (bs.drop 8)) j).getLsbD k := rfl
      rw [hrest, ih _ (by omega)]
      simp [List.getElem?_drop, show 8 + (8 * j + k) = 8 * (j + 1) + k by omega]

theorem unpackByte_getD (d : Byte) {k : Nat} (hk : k < 8) : (unpackByte d).getD k false = d.getLsbD k := by
  interval_cases k <;> rfl

theorem unpack_getD (ds : List Byte) (j : Nat) {k : Nat} (hk : k < 8) :
    (unpack ds).getD (8 * j + k) false = (byteAt ds j).getLsbD k := by
  induction ds generalizing j with
  | nil => simp [unpack, byteAt]
  | cons d ds ih =>
    have hcons : unpack (d :: ds) = unpackByte d ++ unpack ds := rfl
    rw [hcons]
    cases j with
    | zero =>
      rw [List.getD_append _ _ _ _ (by simpa using hk), Nat.mul_zero, Nat.zero_add]
      exact unpackByte_getD d hk
    | succ j =>
      rw [List.getD_append_right _ _ _ _ (by rw [unpackByte_length]; omega), unpackByte_length,
        show 8 * (j + 1) + k - 8 = 8 * j + k by omega]
      exact ih j

theorem unpack_pack_getD (bs : List Bool) {i : Nat} (hi : i < bs.length) : (unpack (pack bs)).getD i false = bs.getD i false := by
  have hk : i % 8 < 8 := Nat.mod_lt _ (by omega)
  rw [← Nat.div_add_mod i 8, unpack_getD _ _ hk]
  exact packBytes_getLsbD bs (by omega) hk

/-- Packing loses no value: only the padding is cut off again. -/
theorem unpack_pack_take (bs : List Bool) : (unpack (pack bs)).take bs.length = bs := by
  refine List.ext_getElem (by simp; omega) fun i _ hi => ?_
  have hbit := unpack_pack_getD bs hi
  rw [List.getD_eq_getElem _ _ hi, List.getD_eq_getElem _ _ (by simp; omega)] at hbit
  rw [List.getElem_take, hbit]

/-- Settles O31, by induction on the bytes: byte `j` holds values `8j` to `8j+7`, low bit first. -/
theorem packedBitsUnpackInOrder : Obligations.PackedBitsUnpackInOrder :=
  ⟨fun bs => ⟨pack_length bs, fun _ hj _ hk => packBytes_getLsbD bs (by simpa using hj) hk⟩, unpack_length,
    fun ds j _ hk => unpack_getD ds j hk, unpack_pack_take⟩

/-! ### The sizes of encoded bodies -/

theorem bitsOf_length_le (vs : List Cell) : (bitsOf vs).length ≤ 2 * vs.length := by
  rw [bitsOf_length]
  omega

theorem multiData_length_le (m : TxRecord) : (multiData m).length ≤ 2 * m.values.length := by
  unfold multiData
  split
  · exact bitsOf_length_le _
  · exact (wordsOf_length _).le

theorem readData_length_le (m : TxRecord) : (readData m).length ≤ 2 * m.values.length := by
  unfold readData
  split
  · exact bitsOf_length_le _
  · exact (wordsOf_length _).le

/-- The longest request is a WMULTI one: header, quantity and byte count before the data (42_codec.md R151). -/
theorem encodeReqBody_length_le (m : TxRecord) : (encodeReqBody m).length ≤ 7 + 2 * m.values.length := by
  have hdata := multiData_length_le m
  unfold encodeReqBody
  cases shape m.fc <;> simp <;> omega

theorem encodeRspBody_length_le (m : TxRecord) : (encodeRspBody m).length ≤ 7 + 2 * m.values.length := by
  have hreq := encodeReqBody_length_le m
  have hdata := readData_length_le m
  unfold encodeRspBody
  cases shape m.fc <;> simp <;> omega

/-- Settles O39: a body is at most 7 bytes and two per value, and a frame adds its trailer or header. -/
theorem encodedSizesAreBounded : Obligations.EncodedSizesAreBounded := by
  intro m tid hm body hbody
  have hlen : body.length ≤ 7 + 2 * m.values.length := by
    simp only [List.mem_cons, List.not_mem_nil, or_false] at hbody
    obtain rfl | rfl | rfl := hbody
    · exact encodeReqBody_length_le m
    · exact encodeRspBody_length_le m
    · simp [encodeExcBody]
      omega
  rw [rtuFrame_length, mbapFrame_length]
  omega

end Sys2Proof.Machine
end

section
/-! PROOFS. The CRC engine: what its four commands write, the streamed and the span form agree, the residue of a framed run is 0, and
a frame with one bit flipped fails the check. The step is injective in the register and in the byte: that is what finds the flipped bit. -/

namespace Sys2Proof.Machine

/-! ### The commands -/

@[simp] theorem exec_crcInit (s : State) : exec .crcInit s = .next (finish .ok { s with crc := 0xFFFF#16 }) := rfl

@[simp] theorem exec_crcUpdate (b : Byte) (s : State) :
    exec (.crcUpdate b) s = .next (finish .ok { s with crc := crcStep s.crc b }) := rfl

@[simp] theorem exec_crcSpanTx (s : State) : exec .crcSpanTx s = .next (finish .ok { s with crc := crc16 s.txb.bytes }) := rfl

@[simp] theorem exec_crcSpanAcc (s : State) : exec .crcSpanAcc s = .next (finish .ok { s with crc := crc16 s.acc.bytes }) := rfl

theorem execAll_cons_of_next {i : Instr} {s t : State} (h : exec i s = .next t) (is : List Instr) :
    execAll (i :: is) s = execAll is t := by
  simp [execAll, h]

/-- A CRC_UPDATE finds STATUS as the command before it finished it, so the whole run finishes once. -/
theorem execAll_crcUpdate (bs : List Byte) (c : Half) (s : State) :
    execAll (bs.map .crcUpdate) (finish .ok { s with crc := c }) = .next (finish .ok { s with crc := bs.foldl crcStep c }) := by
  induction bs generalizing c with
  | nil => rfl
  | cons b bs ih =>
    calc execAll (.crcUpdate b :: bs.map .crcUpdate) (finish .ok { s with crc := c })
        = execAll (bs.map .crcUpdate) (finish .ok { s with crc := crcStep c b }) := execAll_cons_of_next (exec_crcUpdate b _) _
      _ = .next (finish .ok { s with crc := bs.foldl crcStep (crcStep c b) }) := ih (crcStep c b)

theorem crc16_append (xs ys : List Byte) : crc16 (xs ++ ys) = ys.foldl crcStep (crc16 xs) := List.foldl_append

/-- Settles O23, by induction on the bytes with the CRC register general. -/
theorem streamedCrcIsTheSpanCrc : Obligations.StreamedCrcIsTheSpanCrc :=
  ⟨fun s bs => (execAll_cons_of_next (exec_crcInit s) _).trans (execAll_crcUpdate bs _ s), crc16_append⟩

theorem crcShifts_eq_iterate (n : Nat) (c : Half) : crcShifts n c = crcShift^[n] c := by
  induction n generalizing c with
  | zero => rfl
  | succ n ih => exact ih (crcShift c)

/-- Settles O22: the step is eight shifts of the register with the byte XORed in, and each command answers its one next state. -/
theorem crcCommandsWriteOnlyTheCrcRegister : Obligations.CrcCommandsWriteOnlyTheCrcRegister :=
  ⟨fun c b => crcShifts_eq_iterate 8 (c ^^^ b.setWidth 16),
    fun s => ⟨exec_crcInit s, fun b => exec_crcUpdate b s, exec_crcSpanTx s, exec_crcSpanAcc s⟩⟩

/-! ### Bytes joined to 16-bit values -/

@[simp] theorem joinBytes_extract (v : Half) : joinBytes (v.extractLsb' 8 8) (v.extractLsb' 0 8) = v := by
  ext i hi
  by_cases h : i < 8
  · simp [joinBytes, h, hi]
  · simp [joinBytes, h, hi, show i - 8 < 8 by omega, show 8 + (i - 8) = i by omega]

@[simp] theorem extract_low_joinBytes (hi lo : Byte) : (joinBytes hi lo).extractLsb' 0 8 = lo := by
  ext i h
  simp [joinBytes, h, show i < 16 by omega]

@[simp] theorem extract_high_joinBytes (hi lo : Byte) : (joinBytes hi lo).extractLsb' 8 8 = hi := by
  ext i h
  simp [joinBytes, h, show 8 + i < 16 by omega]

theorem le16_joinBytes (hi lo : Byte) : le16 (joinBytes hi lo) = [lo, hi] := by
  simp [le16]

theorem le16_injective : Function.Injective le16 := by
  intro v w h
  obtain ⟨hlo, hhi⟩ : v.extractLsb' 0 8 = w.extractLsb' 0 8 ∧ v.extractLsb' 8 8 = w.extractLsb' 8 8 := by simpa [le16] using h
  rw [← joinBytes_extract v, hlo, hhi, joinBytes_extract]

/-! ### The residue -/

/-- No feedback while zeros leave the register. -/
theorem crcShifts_of_low_zero {n : Nat} {c : Half} (h : ∀ i < n, c.getLsbD i = false) : crcShifts n c = c >>> n := by
  induction n generalizing c with
  | zero => simp [crcShifts]
  | succ n ih =>
    have hshift : crcShift c = c >>> 1 := by rw [crcShift, h 0 n.succ_pos, if_neg Bool.false_ne_true]
    calc crcShifts (n + 1) c = crcShifts n (c >>> 1) := congrArg (crcShifts n) hshift
      _ = c >>> 1 >>> n := ih fun i hi => by simpa using h (1 + i) (by omega)
      _ = c >>> (n + 1) := by rw [← BitVec.shiftRight_add, Nat.add_comm]

theorem crcStep_self_low (c : Half) : crcStep c (c.extractLsb' 0 8) = c >>> 8 := by
  have hlow : ∀ i < 8, (c ^^^ (c.extractLsb' 0 8).setWidth 16).getLsbD i = false := by
    intro i hi
    simp [hi, show i < 16 by omega]
  rw [crcStep, crcShifts_of_low_zero hlow]
  ext i hi
  simp

theorem crcStep_high_zero (c : Half) : crcStep (c >>> 8) (c.extractLsb' 8 8) = 0#16 := by
  have hzero : c >>> 8 ^^^ (c.extractLsb' 8 8).setWidth 16 = 0#16 := by
    rw [BitVec.xor_eq_zero_iff]
    ext i hi
    by_cases h : i < 8
    · simp [h]
    · simp [h, BitVec.getLsbD_of_ge c (8 + i) (by omega)]
  rw [crcStep, hzero]
  rfl

/-- Settles O24: the low CRC byte leaves the high one in the register, and the high CRC byte leaves 0. -/
theorem crcOfAFramedRunIsZero : Obligations.CrcOfAFramedRunIsZero := fun p =>
  calc crc16 (p ++ le16 (crc16 p))
      = crcStep (crcStep (crc16 p) ((crc16 p).extractLsb' 0 8)) ((crc16 p).extractLsb' 8 8) := crc16_append _ _
    _ = 0x0000#16 := by rw [crcStep_self_low, crcStep_high_zero]

/-! ### One changed byte changes the CRC -/

/-- 0xA001 has bit 15 set, so bit 15 after a shift is the bit that left. -/
theorem crcShift_msb (c : Half) : (crcShift c).getLsbD 15 = c.getLsbD 0 := by
  unfold crcShift
  split
  case isTrue h => simpa using h
  case isFalse h => simpa using h

theorem crcShift_injective : Function.Injective crcShift := by
  intro c d h
  have hbit : c.getLsbD 0 = d.getLsbD 0 := by rw [← crcShift_msb, h, crcShift_msb]
  have hrest : c >>> 1 = d >>> 1 := by
    unfold crcShift at h
    rw [hbit] at h
    split at h
    · exact (BitVec.xor_left_inj _).mp h
    · exact h
  refine BitVec.eq_of_getLsbD_eq fun i _ => ?_
  cases i with
  | zero => exact hbit
  | succ i => simpa [Nat.add_comm] using congrArg (·.getLsbD i) hrest

theorem crcShifts_injective (n : Nat) : Function.Injective (crcShifts n) := by
  rw [funext (crcShifts_eq_iterate n)]
  exact crcShift_injective.iterate n

theorem crcStep_register_injective (b : Byte) : Function.Injective (crcStep · b) := fun _ _ h =>
  (BitVec.xor_left_inj _).mp (crcShifts_injective 8 h)

theorem crcStep_byte_injective (c : Half) : Function.Injective (crcStep c) := by
  intro a b h
  have hwide : a.setWidth 16 = b.setWidth 16 := (BitVec.xor_right_inj _).mp (crcShifts_injective 8 h)
  simpa using congrArg (BitVec.setWidth 8) hwide

theorem foldl_crcStep_injective (bs : List Byte) : Function.Injective (bs.foldl crcStep) := by
  induction bs with
  | nil => exact fun _ _ h => h
  | cons b bs ih => exact ih.comp (crcStep_register_injective b)

/-- The register differs after the changed byte, and equal bytes keep it different. -/
theorem crc16_changed_byte (xs ys : List Byte) {a b : Byte} (h : a ≠ b) : crc16 (xs ++ a :: ys) ≠ crc16 (xs ++ b :: ys) := by
  rw [crc16_append, crc16_append]
  exact fun hcrc => h (crcStep_byte_injective _ (foldl_crcStep_injective ys hcrc))

/-! ### One flipped bit -/

@[simp] theorem flipBit_length (f : List Byte) (k : Nat) : (flipBit f k).length = f.length := by simp [flipBit]

theorem flipBit_append_left {f : List Byte} {k : Nat} (h : k < 8 * f.length) (g : List Byte) :
    flipBit (f ++ g) k = flipBit f k ++ g := by
  have hk : k / 8 < f.length := by omega
  simp only [flipBit, byteAt, List.getD_append _ _ _ _ hk, List.set_append_left _ _ hk]

theorem flipBit_append_right (f g : List Byte) (k : Nat) : flipBit (f ++ g) (8 * f.length + k) = f ++ flipBit g k := by
  have hdiv : (8 * f.length + k) / 8 = f.length + k / 8 := by omega
  have hmod : (8 * f.length + k) % 8 = k % 8 := by omega
  simp [flipBit, byteAt, hdiv, hmod, List.getElem?_append_right]

/-- A flip inside the run changes one byte of it. -/
theorem flipBit_changes_one_byte {f : List Byte} {k : Nat} (h : k < 8 * f.length) :
    ∃ xs a b ys, a ≠ b ∧ f = xs ++ a :: ys ∧ flipBit f k = xs ++ b :: ys := by
  have hk : k / 8 < f.length := by omega
  have hbit : (1#8 <<< (k % 8)).getLsbD (k % 8) = true := by simp [show k % 8 < 8 by omega]
  refine ⟨f.take (k / 8), byteAt f (k / 8), byteAt f (k / 8) ^^^ 1#8 <<< (k % 8), f.drop (k / 8 + 1), fun heq => ?_, ?_, ?_⟩
  · have := congrArg (·.getLsbD (k % 8)) heq
    simp [hbit] at this
  · simp [byteAt, hk]
  · rw [flipBit, List.set_eq_take_append_cons_drop, if_pos hk]

theorem flipBit_ne {f : List Byte} {k : Nat} (h : k < 8 * f.length) : flipBit f k ≠ f := by
  obtain ⟨xs, a, b, ys, hne, hf, hflip⟩ := flipBit_changes_one_byte h
  rw [hflip, hf]
  simpa using hne.symm

theorem crc16_flipBit_ne {p : List Byte} {k : Nat} (h : k < 8 * p.length) : crc16 (flipBit p k) ≠ crc16 p := by
  obtain ⟨xs, a, b, ys, hne, hp, hflip⟩ := flipBit_changes_one_byte h
  rw [hflip, hp]
  exact crc16_changed_byte xs ys hne.symm

/-- The check (R132) passes exactly for the trailer an RTU frame carries (43_framing.md R190). -/
theorem crcCheck_append_iff (p : List Byte) {t : List Byte} (ht : t.length = 2) :
    crcCheck (p ++ t) = true ↔ t = le16 (crc16 p) := by
  obtain ⟨lo, hi, rfl⟩ := List.length_eq_two.mp ht
  have hcheck : crcCheck (p ++ [lo, hi]) = true ↔ crc16 p = joinBytes hi lo := by simp [crcCheck, rdLe16, byteAt]
  rw [hcheck, ← le16_joinBytes, le16_injective.eq_iff, eq_comm]

/-- Settles O25: a flip in the body changes the CRC computed, a flip in the trailer the CRC stored. -/
theorem oneFlippedBitFailsTheCheck : Obligations.OneFlippedBitFailsTheCheck := by
  refine fun p => ⟨(crcCheck_append_iff p rfl).mpr rfl, fun k hk => ?_⟩
  rw [← Bool.not_eq_true, rtuFrame]
  by_cases hbody : k < 8 * p.length
  · rw [flipBit_append_left hbody, crcCheck_append_iff _ rfl]
    exact fun h => crc16_flipBit_ne hbody (le16_injective h).symm
  · obtain ⟨j, rfl⟩ := Nat.exists_eq_add_of_le (Nat.le_of_not_lt hbody)
    rw [flipBit_append_right, crcCheck_append_iff p (by simp)]
    exact flipBit_ne (by rw [le16_length]; omega)

end Sys2Proof.Machine
end

section
/-! PROOFS. The classifier's table and the message setup: what NOP, CLASSIFY and SET_COUNT write (41_classify.md). -/

namespace Sys2Proof.Machine

@[simp] theorem exec_nop (s : State) : exec .nop s = .next (finish .ok s) := rfl

@[simp] theorem exec_classify (c : Byte) (s : State) :
    exec (.classify c) s = .next (finish .ok { s with cls := ⟨c, (classify c).1, (classify c).2⟩ }) := rfl

@[simp] theorem exec_setCount (n : Half) (s : State) :
    exec (.setCount n) s =
      .next (finish .ok { s with txm := { s.txm with cells := reshape s.txm.cells (padCell s.txm.fc) n.toNat } }) := rfl

/-! ### The table -/

/-- The rows of R141 outside the nine recognised codes. -/
theorem classify_of_not_mem {c : Byte}
    (h : c ∉ [0x01#8, 0x02#8, 0x03#8, 0x04#8, 0x05#8, 0x06#8, 0x08#8, 0x0F#8, 0x10#8]) :
    classify c = if c.getLsbD 7 then (.exception, .unknown) else (.unknown, .unknown) := by
  simp only [List.mem_cons, List.not_mem_nil, or_false, not_or] at h
  simp only [classify, h, if_false]

/-- No recognised code has bit 7 set, so the order of the table's rows does not matter. -/
theorem classify_of_msb {c : Byte} (h : c.getLsbD 7 = true) : classify c = (.exception, .unknown) := by
  have hclear : ∀ d ∈ [0x01#8, 0x02#8, 0x03#8, 0x04#8, 0x05#8, 0x06#8, 0x08#8, 0x0F#8, 0x10#8], d.getLsbD 7 = false := by
    decide
  rw [classify_of_not_mem fun hc => Bool.false_ne_true ((hclear c hc).symm.trans h), if_pos h]

theorem classify_of_msb_clear {c : Byte} (h : c.getLsbD 7 = false)
    (hc : c ∉ [0x01#8, 0x02#8, 0x03#8, 0x04#8, 0x05#8, 0x06#8, 0x08#8, 0x0F#8, 0x10#8]) :
    classify c = (.unknown, .unknown) := by
  rw [classify_of_not_mem hc, if_neg (Bool.eq_false_iff.mp h)]

theorem classify_parts {c d : Byte} {ft : FunctionType} {rc : RegCategory} (hd : classify d = (ft, rc)) (h : c = d) :
    (classify c).1 = ft ∧ (classify c).2 = rc := by
  rw [h, hd]
  exact ⟨rfl, rfl⟩

/-- Settles O26: the CLASS word is the OR of its three fields, and the pair is the row of the table. -/
theorem nopAndClassifyReport : Obligations.NopAndClassifyReport := by
  refine fun s => ⟨exec_nop s, fun c => ⟨_, _, exec_classify c s, fun t ht => ?_, classify_parts rfl, classify_parts rfl,
    classify_parts rfl, classify_parts rfl, classify_parts rfl, classify_parts rfl, classify_parts rfl, classify_parts rfl,
    classify_parts rfl, fun h => classify_parts (classify_of_msb h) rfl,
    fun h hc => classify_parts (classify_of_msb_clear h hc) rfl⟩⟩
  obtain rfl := Host.Outcome.next.inj ht
  refine congrArg₂ (· ||| ·) (congrArg (c.setWidth 32 <<< 8 ||| ·) ?_) ?_
  · cases (classify c).2 <;> rfl
  · cases (classify c).1 <;> rfl

/-! ### The count -/

theorem bitShape_iff_mem (fc : Byte) : bitShape fc = true ↔ fc ∈ [0x01#8, 0x02#8, 0x05#8, 0x0F#8] := by
  simp [bitShape, or_assoc]

theorem padCell_eq (fc : Byte) : padCell fc = if fc ∈ [0x01#8, 0x02#8, 0x05#8, 0x0F#8] then .bit false else .word 0#16 := by
  simp only [padCell, bitShape_iff_mem]

/-- TXM_COUNT (10_state.md R43) reads `n` where TXV holds `n` cells. -/
theorem hostRead_txmCount_of_length {s : State} {n : Half} (h : s.txm.cells.length = n.toNat) :
    hostRead 0x2C s = n.setWidth 32 := by
  have hcount : s.txmCount = n := by rw [State.txmCount, h, BitVec.ofNat_toNat, BitVec.setWidth_eq]
  exact (hostRead_offset .txmCount s).trans (congrArg (BitVec.setWidth 32) hcount)

/-- Settles O27: the cells are TXV re-shaped to `n` with the padding cell, and a re-shaped list has the length asked for. -/
theorem setCountReshapesTheValues : Obligations.SetCountReshapesTheValues := by
  intro s n
  have hlen := reshape_length s.txm.cells (padCell s.txm.fc) n.toNat
  refine ⟨_, exec_setCount n s, ?_, hlen, hostRead_txmCount_of_length hlen⟩
  rw [padCell_eq]
  rfl

end Sys2Proof.Machine
end

section
/-! PROOFS. What the codec reads and writes (42_codec.md): the fields of a body, the body each shape class encodes to, and for each decoder
one condition under which it answers its message. -/

namespace Sys2Proof.Machine

/-! ### Shape classes -/

theorem shape_read_of_mem {fc : Byte} (h : fc ∈ [0x01#8, 0x02#8, 0x03#8, 0x04#8]) : shape fc = .read :=
  (by decide : ∀ c ∈ [0x01#8, 0x02#8, 0x03#8, 0x04#8], shape c = .read) fc h

theorem shape_wsingle_of_mem {fc : Byte} (h : fc ∈ [0x05#8, 0x06#8]) : shape fc = .wsingle :=
  (by decide : ∀ c ∈ [0x05#8, 0x06#8], shape c = .wsingle) fc h

theorem shape_wmulti_of_mem {fc : Byte} (h : fc ∈ [0x0F#8, 0x10#8]) : shape fc = .wmulti :=
  (by decide : ∀ c ∈ [0x0F#8, 0x10#8], shape c = .wmulti) fc h

theorem shape_diag_of_eq {fc : Byte} (h : fc = 0x08#8) : shape fc = .diag := by
  rw [h]
  rfl

theorem shape_of_not_mem {fc : Byte} (h : fc ∉ [0x01#8, 0x02#8, 0x03#8, 0x04#8, 0x05#8, 0x06#8, 0x0F#8, 0x10#8]) :
    shape fc = .diag ∨ shape fc = .none := by
  simp only [List.mem_cons, List.not_mem_nil, or_false, not_or] at h
  simp only [shape, h, or_false, if_false]
  exact (em (fc = 0x08#8)).imp (if_pos ·) (if_neg ·)

theorem bitRead_of_mem {fc : Byte} (h : fc ∈ [0x01#8, 0x02#8]) : shape fc = .read ∧ bitShape fc = true :=
  (by decide : ∀ c ∈ [0x01#8, 0x02#8], shape c = .read ∧ bitShape c = true) fc h

theorem wordRead_of_mem {fc : Byte} (h : fc ∈ [0x03#8, 0x04#8]) : shape fc = .read ∧ ¬ bitShape fc = true :=
  (by decide : ∀ c ∈ [0x03#8, 0x04#8], shape c = .read ∧ ¬ bitShape c = true) fc h

/-- No recognised code has bit 7 set, so an exception reply never hides one (42_codec.md R157). -/
theorem msb_clear_of_shape {fc : Byte} (h : shape fc ≠ .none) : fc.getLsbD 7 = false := by
  revert fc
  decide

/-! ### Words -/

theorem joinBytes_eq_append (hi lo : Byte) : joinBytes hi lo = hi ++ lo := by
  refine BitVec.eq_of_getLsbD_eq fun i hi => ?_
  rw [joinBytes, BitVec.getLsbD_append]
  by_cases h : i < 8
  · simp [h, hi]
  · simp [h, hi, BitVec.getLsbD_of_ge lo i (by omega)]

theorem rdBe16_eq_append (xs : List Byte) (i : Nat) : rdBe16 xs i = byteAt xs i ++ byteAt xs (i + 1) :=
  joinBytes_eq_append _ _

theorem byteAt_drop (xs : List Byte) (k i : Nat) : byteAt (xs.drop k) i = byteAt xs (k + i) := by
  simp [byteAt]

theorem byteAt_take (xs : List Byte) {k i : Nat} (h : i < k) : byteAt (xs.take k) i = byteAt xs i := by
  rw [byteAt, byteAt, List.getD_eq_getElem?_getD, List.getD_eq_getElem?_getD, List.getElem?_take_of_lt h]

/-- The words of a run are its pairs of bytes, big-endian and in order. -/
theorem wordsFrom_eq_map_range (xs : List Byte) : wordsFrom xs = (List.range (xs.length / 2)).map fun i => rdBe16 xs (2 * i) := by
  induction xs using wordsFrom.induct with
  | case1 hi lo rest ih =>
    have hlen : (hi :: lo :: rest).length / 2 = rest.length / 2 + 1 := Nat.add_div_right rest.length two_pos
    rw [hlen, List.range_succ_eq_map, List.map_cons, List.map_map, wordsFrom, ih]
    rfl
  | case2 => simp [wordsFrom]
  | case3 => rfl

theorem wordsFrom_drop {xs : List Byte} {k n : Nat} (h : (xs.length - k) / 2 = n) :
    wordsFrom (xs.drop k) = (List.range n).map fun i => rdBe16 xs (k + 2 * i) := by
  rw [wordsFrom_eq_map_range, List.length_drop, h]
  refine List.map_congr_left fun i _ => ?_
  rw [rdBe16, rdBe16, byteAt_drop, byteAt_drop, Nat.add_assoc]

theorem wordsFrom_wordsOf (vs : List Cell) : wordsFrom (wordsOf vs) = vs.map Cell.wordOf := by
  induction vs with
  | nil => rfl
  | cons v vs ih =>
    calc wordsFrom (wordsOf (v :: vs))
        = joinBytes (v.wordOf.extractLsb' 8 8) (v.wordOf.extractLsb' 0 8) :: wordsFrom (wordsOf vs) := rfl
      _ = (v :: vs).map Cell.wordOf := by rw [joinBytes_extract, ih, List.map_cons]

/-! ### The fields of an encoded body -/

section
variable (m : TxRecord) (q : Half) (n : Byte) (rest : List Byte)

@[simp] theorem byteAt_header_zero : byteAt (header m ++ rest) 0 = m.sid := rfl
@[simp] theorem byteAt_header_one : byteAt (header m ++ rest) 1 = m.fc := rfl
@[simp] theorem rdBe16_header_two : rdBe16 (header m ++ rest) 2 = m.addr := joinBytes_extract _
@[simp] theorem rdBe16_header_be16 : rdBe16 (header m ++ be16 q) 4 = q := joinBytes_extract _
@[simp] theorem rdBe16_header_be16_append : rdBe16 (header m ++ (be16 q ++ rest)) 4 = q := joinBytes_extract _
@[simp] theorem byteAt_header_be16_cons : byteAt (header m ++ (be16 q ++ n :: rest)) 6 = n := rfl
@[simp] theorem drop_header : (header m ++ rest).drop 4 = rest := rfl
@[simp] theorem drop_header_be16_cons : (header m ++ (be16 q ++ n :: rest)).drop 7 = rest := rfl

end

/-! ### The body of each shape class (R151, R152) -/

section
variable {m : TxRecord}

theorem singleValue_of_coil (h : m.fc = 0x05#8) :
    singleValue m = if (m.values.headD (.bit false)).bitOf then 0xFF00#16 else 0x0000#16 := by
  simp only [singleValue, h, if_true]

theorem singleValue_of_not_coil (h : m.fc ≠ 0x05#8) : singleValue m = (m.values.headD (.word 0#16)).wordOf := by
  simp only [singleValue, h, if_false]

theorem encodeReqBody_of_read (h : shape m.fc = .read) : encodeReqBody m = header m ++ be16 m.count := by
  simp only [encodeReqBody, h]

theorem encodeReqBody_of_wsingle (h : shape m.fc = .wsingle) : encodeReqBody m = header m ++ be16 (singleValue m) := by
  simp only [encodeReqBody, h]

theorem encodeReqBody_of_wmulti (h : shape m.fc = .wmulti) :
    encodeReqBody m = header m ++ (be16 m.count ++ byteCount (multiData m) :: multiData m) := by
  simp only [encodeReqBody, h, List.append_assoc, List.singleton_append]

theorem encodeReqBody_of_diag_or_none (h : shape m.fc = .diag ∨ shape m.fc = .none) :
    encodeReqBody m = header m ++ wordsOf m.values := by
  cases h with
  | inl h => simp only [encodeReqBody, h]
  | inr h => simp only [encodeReqBody, h]

theorem encodeRspBody_of_read (h : shape m.fc = .read) :
    encodeRspBody m = m.sid :: m.fc :: byteCount (readData m) :: readData m := by
  simp only [encodeRspBody, h, List.cons_append, List.nil_append]

theorem encodeRspBody_of_wsingle (h : shape m.fc = .wsingle) : encodeRspBody m = encodeReqBody m := by
  simp only [encodeRspBody, h]

theorem encodeRspBody_of_wmulti (h : shape m.fc = .wmulti) : encodeRspBody m = header m ++ be16 m.count := by
  simp only [encodeRspBody, h]

theorem encodeRspBody_of_diag_or_none (h : shape m.fc = .diag ∨ shape m.fc = .none) :
    encodeRspBody m = header m ++ wordsOf m.values := by
  cases h with
  | inl h => simp only [encodeRspBody, h]
  | inr h => simp only [encodeRspBody, h]

end

/-! ### The decoders, each under one condition (R160 to R165) -/

theorem decodeReadReq_eq (b : List Byte) : decodeReadReq b =
    if b.length = 6 then
      .ok { kind := .request, sid := byteAt b 0, fc := byteAt b 1, addr := rdBe16 b 2, count := rdBe16 b 4 }
    else .error .malformed := by
  simp only [decodeReadReq, ne_eq, ite_not]

theorem decodeReadRsp_eq (b : List Byte) : decodeReadRsp b =
    if b.length = 3 + (byteAt b 2).toNat ∧ (bitShape (byteAt b 1) = true ∨ (byteAt b 2).toNat % 2 = 0) then
      .ok { kind := .response, sid := byteAt b 0, fc := byteAt b 1,
            count := BitVec.ofNat 16 (readCells (byteAt b 1) (b.drop 3)).length, values := readCells (byteAt b 1) (b.drop 3) }
    else .error .malformed := by
  rw [decodeReadRsp]
  by_cases hlen : b.length = 3 + (byteAt b 2).toNat
  · have hthree : ¬ b.length < 3 := by omega
    have hodd : (bitShape (byteAt b 1) = false ∧ (byteAt b 2).toNat % 2 ≠ 0) ↔
        ¬ (bitShape (byteAt b 1) = true ∨ (byteAt b 2).toNat % 2 = 0) := by simp
    rw [if_neg hthree, if_neg (not_not.mpr hlen)]
    simp only [hlen, hodd, ite_not, true_and]
  · simp only [hlen, ne_eq, not_false_eq_true, false_and, if_true, if_false, ite_self]

theorem decodeSingle_of_cell {b : List Byte} {v : Cell} (hlen : b.length = 6)
    (hv : singleCell (byteAt b 1) (rdBe16 b 4) = some v) (role : Role) : decodeSingle b role =
    .ok { kind := role.kind, sid := byteAt b 0, fc := byteAt b 1, addr := rdBe16 b 2, count := 1#16, values := [v] } := by
  simp only [decodeSingle, hlen, hv, ne_eq, not_true, if_false]

theorem decodeSingle_of_not {b : List Byte} (h : ¬ (b.length = 6 ∧ singleCell (byteAt b 1) (rdBe16 b 4) ≠ none)) (role : Role) :
    decodeSingle b role = .error .malformed := by
  by_cases hlen : b.length = 6
  · have hv : singleCell (byteAt b 1) (rdBe16 b 4) = none := by simpa [hlen] using h
    simp only [decodeSingle, hv, ite_self]
  · simp only [decodeSingle, hlen, ne_eq, not_false_eq_true, if_true]

theorem decodeMultiReq_eq (b : List Byte) : decodeMultiReq b =
    if 7 ≤ b.length ∧ (byteAt b 6).toNat = multiNeed (byteAt b 1) (rdBe16 b 4) ∧ b.length = 7 + (byteAt b 6).toNat then
      .ok { kind := .request, sid := byteAt b 0, fc := byteAt b 1, addr := rdBe16 b 2, count := rdBe16 b 4,
            values := multiCells (byteAt b 1) (rdBe16 b 4) (b.drop 7) }
    else .error .malformed := by
  simp only [decodeMultiReq, ite_and, ne_eq, ite_not, ← Nat.not_lt, eq_comm]

theorem decodeMultiRsp_eq (b : List Byte) : decodeMultiRsp b =
    if b.length = 6 then
      .ok { kind := .response, sid := byteAt b 0, fc := byteAt b 1, addr := rdBe16 b 2, count := rdBe16 b 4 }
    else .error .malformed := by
  simp only [decodeMultiRsp, ne_eq, ite_not]

theorem decodeDiag_eq (b : List Byte) (role : Role) : decodeDiag b role =
    if 4 ≤ b.length ∧ (b.length - 4) % 2 = 0 ∧ (b.length - 4) / 2 ≤ 65535 then
      .ok { kind := role.kind, sid := byteAt b 0, fc := byteAt b 1, addr := rdBe16 b 2,
            count := BitVec.ofNat 16 ((b.length - 4) / 2), values := (wordsFrom (b.drop 4)).map .raw }
    else .error .malformed := by
  simp only [decodeDiag, ite_and, ite_or, ne_eq, ite_not, ← Nat.not_lt]

/-! ### The decoder of a body (R157 to R159) -/

/-- The decoder of a shape class in a role: what `decodeBody` calls once a body is no exception reply (R158). -/
def decodeShape (sh : Shape) (b : List Byte) (role : Role) : Except DecodeErr Msg :=
  match sh, role with
  | .none, _ => .error .unknownFunction
  | .read, .request => decodeReadReq b
  | .read, .response => decodeReadRsp b
  | .wsingle, role => decodeSingle b role
  | .wmulti, .request => decodeMultiReq b
  | .wmulti, .response => decodeMultiRsp b
  | .diag, role => decodeDiag b role

theorem decodeBody_eq_decodeShape {b : List Byte} {role : Role} (hlen : 2 ≤ b.length)
    (hexc : ¬ (role = .response ∧ isExc b = true)) : decodeBody b role = decodeShape (shape (byteAt b 1)) b role := by
  unfold decodeBody
  rw [if_neg (Nat.not_lt.mpr hlen), if_neg hexc]
  unfold decodeShape
  cases shape (byteAt b 1) <;> cases role <;> rfl

/-- A body whose byte 1 is a recognised code goes to the decoder of its shape class: it has that byte, and bit 7 of it is clear. -/
theorem decodeBody_of_shape {b : List Byte} {sh : Shape} (h : shape (byteAt b 1) = sh) (hsh : sh ≠ .none) (role : Role) :
    decodeBody b role = decodeShape sh b role := by
  subst h
  have hlen : 2 ≤ b.length := by
    by_contra hlen
    exact hsh (by rw [byteAt, List.getD_eq_default _ _ (by omega)]; rfl)
  refine decodeBody_eq_decodeShape hlen fun hexc => ?_
  rw [isExc, msb_clear_of_shape hsh, Bool.and_false] at hexc
  exact Bool.false_ne_true hexc.2

theorem decodeBody_of_msb {b : List Byte} (hlen : 3 ≤ b.length) (hmsb : (byteAt b 1).getLsbD 7 = true) :
    decodeBody b .response = decodeExcBody b := by
  have hexc : isExc b = true := by rw [isExc, hmsb, Bool.and_true, decide_eq_true hlen]
  unfold decodeBody
  rw [if_neg (by omega), if_pos ⟨rfl, hexc⟩]

theorem knownErr_iff_mem (e : Byte) :
    knownErr e = true ↔ e ∈ [0x01#8, 0x02#8, 0x03#8, 0x04#8, 0x05#8, 0x06#8, 0x08#8, 0x0A#8, 0x0B#8] := by
  simp [knownErr, or_assoc]

theorem decodeBody_exception {fc : Byte} (hmsb : fc.getLsbD 7 = true) (sid err : Byte) : decodeBody [sid, fc, err] .response =
    if err ∈ [0x01#8, 0x02#8, 0x03#8, 0x04#8, 0x05#8, 0x06#8, 0x08#8, 0x0A#8, 0x0B#8] then
      .ok { kind := .exception, sid := sid, fc := fc &&& 0x7F#8, err := err }
    else .error .malformed := by
  have hbody : decodeExcBody [sid, fc, err] =
      if knownErr err = false then .error .malformed
      else .ok { kind := .exception, sid := sid, fc := fc &&& 0x7F#8, err := err } := rfl
  simp only [decodeBody_of_msb (b := [sid, fc, err]) le_rfl hmsb, hbody, ← knownErr_iff_mem, ← Bool.not_eq_true, ite_not]

end Sys2Proof.Machine
end

section
/-! PROOFS. The codec's round trips (42_codec.md R171, R172): what the body of a TX message decodes to, shape class by shape class. -/

namespace Sys2Proof.Machine

/-! ### Values of a message's own category -/

@[simp] theorem bitsOf_map_bit (bs : List Bool) : bitsOf (bs.map .bit) = pack bs := by
  rw [bitsOf, List.map_map]
  exact congrArg pack (List.map_id bs)

/-- Nothing is padding where the bits fill whole bytes. -/
theorem unpack_pack {bs : List Bool} (h : bs.length % 8 = 0) : unpack (pack bs) = bs := by
  have hlen : (unpack (pack bs)).length = bs.length := by
    rw [unpack_length, pack_length]
    omega
  calc unpack (pack bs) = (unpack (pack bs)).take bs.length := (List.take_of_length_le hlen.le).symm
    _ = bs := unpack_pack_take bs

theorem wordsFrom_wordsOf_map_word (ws : List Half) : wordsFrom (wordsOf (ws.map .word)) = ws := by
  rw [wordsFrom_wordsOf, List.map_map]
  exact List.map_id ws

theorem wordsFrom_wordsOf_map_raw (rs : List Half) : wordsFrom (wordsOf (rs.map .raw)) = rs := by
  rw [wordsFrom_wordsOf, List.map_map]
  exact List.map_id rs

theorem byteCount_toNat {d : List Byte} (h : d.length ≤ 255) : (byteCount d).toNat = d.length :=
  (BitVec.toNat_ofNat _ _).trans (Nat.mod_eq_of_lt (by omega))

theorem byteCount_toNat_ne {d : List Byte} (h : 255 < d.length) : (byteCount d).toNat ≠ d.length := by
  have hlt : (byteCount d).toNat < 2 ^ 8 := (byteCount d).isLt
  omega

theorem decodeBody_header {m : TxRecord} {sh : Shape} (h : shape m.fc = sh) (hsh : sh ≠ .none) (rest : List Byte) (role : Role) :
    decodeBody (header m ++ rest) role = decodeShape sh (header m ++ rest) role :=
  decodeBody_of_shape (b := header m ++ rest) h hsh role

/-! ### READ -/

theorem decodeBody_encodeReqBody_read {m : TxRecord} (h : shape m.fc = .read) : decodeBody (encodeReqBody m) .request =
    .ok { kind := .request, sid := m.sid, fc := m.fc, addr := m.addr, count := m.count } := by
  rw [encodeReqBody_of_read h, decodeBody_header h nofun]
  simp [decodeShape, decodeReadReq_eq]

/-- A READ response carries its data whole where it fits the byte count, in pairs of bytes for a register code. -/
theorem decodeBody_read_response {sid fc : Byte} {d : List Byte} (h : shape fc = .read) (hlen : d.length ≤ 255)
    (hpairs : bitShape fc = true ∨ d.length % 2 = 0) : decodeBody (sid :: fc :: byteCount d :: d) .response =
    .ok { kind := .response, sid := sid, fc := fc, count := BitVec.ofNat 16 (readCells fc d).length, values := readCells fc d } := by
  have hcount : (byteAt (sid :: fc :: byteCount d :: d) 2).toNat = d.length := byteCount_toNat hlen
  refine (decodeBody_of_shape (b := sid :: fc :: byteCount d :: d) h nofun .response).trans ((decodeReadRsp_eq _).trans (if_pos ⟨?_, ?_⟩))
  · rw [hcount, List.length_cons, List.length_cons, List.length_cons]
    omega
  · rw [hcount]
    exact hpairs

/-! ### WSINGLE -/

/-- The value that a WSINGLE body carries of the message, as a cell of the code's category (R151, R162). -/
def TxRecord.firstCell (m : TxRecord) : Cell :=
  if m.fc = 0x05#8 then .bit (m.values.headD (.bit false)).bitOf else .word (m.values.headD (.word 0#16)).wordOf

theorem firstCell_of_bit {m : TxRecord} {b : Bool} (hfc : m.fc = 0x05#8) (hvs : m.values = [.bit b]) : m.firstCell = .bit b := by
  rw [TxRecord.firstCell, if_pos hfc, hvs]
  rfl

theorem firstCell_of_word {m : TxRecord} {w : Half} (hfc : m.fc = 0x06#8) (hvs : m.values = [.word w]) :
    m.firstCell = .word w := by
  rw [TxRecord.firstCell, if_neg (by simp [hfc]), hvs]
  rfl

/-- A coil is sent as 0xFF00 or 0x0000, the two values its decoder takes (30_encoding.md R99). -/
theorem singleCell_singleValue (m : TxRecord) : singleCell m.fc (singleValue m) = some m.firstCell := by
  by_cases h : m.fc = 0x05#8
  · rw [singleValue_of_coil h, singleCell, TxRecord.firstCell, if_pos h, if_pos h]
    cases (m.values.headD (.bit false)).bitOf <;> rfl
  · rw [singleValue_of_not_coil h, singleCell, TxRecord.firstCell, if_neg h, if_neg h]

theorem decodeBody_encodeReqBody_wsingle {m : TxRecord} (h : shape m.fc = .wsingle) (role : Role) :
    decodeBody (encodeReqBody m) role =
      .ok { kind := role.kind, sid := m.sid, fc := m.fc, addr := m.addr, count := 1#16, values := [m.firstCell] } := by
  have hcell : singleCell (byteAt (header m ++ be16 (singleValue m)) 1) (rdBe16 (header m ++ be16 (singleValue m)) 4) =
      some m.firstCell := by
    simp [singleCell_singleValue]
  rw [encodeReqBody_of_wsingle h, decodeBody_header h nofun]
  refine (decodeSingle_of_cell rfl hcell role).trans ?_
  simp

/-! ### WMULTI -/

theorem count_toNat {m : TxRecord} (hlen : m.values.length < 65536) (hcount : m.count = BitVec.ofNat 16 m.values.length) :
    m.count.toNat = m.values.length := by
  rw [hcount, BitVec.toNat_ofNat, Nat.mod_eq_of_lt hlen]

/-- The data of a WMULTI request is as long as its count asks for (R163). -/
theorem multiData_length {m : TxRecord} (hcount : m.count.toNat = m.values.length) :
    (multiData m).length = multiNeed m.fc m.count := by
  unfold multiData multiNeed
  split
  · rw [bitsOf_length, hcount]
  · rw [wordsOf_length, hcount]

/-- A WMULTI request decodes exactly while its byte count counts its data; otherwise it disagrees with the count (log 9). -/
theorem decodeBody_encodeReqBody_wmulti {m : TxRecord} (h : shape m.fc = .wmulti) (hcount : m.count.toNat = m.values.length) :
    decodeBody (encodeReqBody m) .request =
      if (multiData m).length ≤ 255 then
        .ok { kind := .request, sid := m.sid, fc := m.fc, addr := m.addr, count := m.count,
              values := multiCells m.fc m.count (multiData m) }
      else .error .malformed := by
  have hdata := multiData_length hcount
  rw [encodeReqBody_of_wmulti h, decodeBody_header h nofun]
  refine (decodeMultiReq_eq _).trans ?_
  by_cases hfits : (multiData m).length ≤ 255
  · have hbytes := byteCount_toNat hfits
    simp [hfits, ← hdata, hbytes]
    omega
  · have hbytes := byteCount_toNat_ne (Nat.lt_of_not_le hfits)
    simp [hfits, ← hdata, hbytes]

theorem multiCells_multiData_bits {m : TxRecord} {bs : List Bool} (hfc : m.fc = 0x0F#8) (hvs : m.values = bs.map .bit)
    (hcount : m.count.toNat = m.values.length) : multiCells m.fc m.count (multiData m) = m.values := by
  have htake : (unpack (pack bs)).take m.count.toNat = bs := by
    rw [hcount, hvs, List.length_map, unpack_pack_take]
  rw [multiCells, multiData, if_pos hfc, if_pos hfc, hvs, bitsOf_map_bit, htake]

theorem multiCells_multiData_words {m : TxRecord} {ws : List Half} (hfc : m.fc = 0x10#8) (hvs : m.values = ws.map .word) :
    multiCells m.fc m.count (multiData m) = m.values := by
  have hwords : m.fc ≠ 0x0F#8 := by simp [hfc]
  rw [multiCells, multiData, if_neg hwords, if_neg hwords, hvs, wordsFrom_wordsOf_map_word]

theorem decodeBody_encodeRspBody_wmulti {m : TxRecord} (h : shape m.fc = .wmulti) : decodeBody (encodeRspBody m) .response =
    .ok { kind := .response, sid := m.sid, fc := m.fc, addr := m.addr, count := m.count } := by
  rw [encodeRspBody_of_wmulti h, decodeBody_header h nofun]
  simp [decodeShape, decodeMultiRsp_eq]

/-! ### DIAG -/

theorem decodeBody_diag {m : TxRecord} (h : shape m.fc = .diag) (hlen : m.values.length < 65536) (role : Role) :
    decodeBody (header m ++ wordsOf m.values) role =
      .ok { kind := role.kind, sid := m.sid, fc := m.fc, addr := m.addr, count := BitVec.ofNat 16 m.values.length,
            values := (wordsFrom (wordsOf m.values)).map .raw } := by
  have hwords : (header m ++ wordsOf m.values).length - 4 = 2 * m.values.length := by simp
  rw [decodeBody_header h nofun]
  refine (decodeDiag_eq _ role).trans ((if_pos ⟨by simp, by omega, by omega⟩).trans ?_)
  simp

/-! ### Exceptions -/

theorem or_msb_and_low (fc : Byte) : (fc ||| 0x80#8) &&& 0x7F#8 = fc &&& 0x7F#8 := by
  revert fc
  decide

theorem decodeBody_encodeExcBody {m : TxRecord}
    (herr : m.err ∈ [0x01#8, 0x02#8, 0x03#8, 0x04#8, 0x05#8, 0x06#8, 0x08#8, 0x0A#8, 0x0B#8]) :
    decodeBody (encodeExcBody m) .response = .ok { kind := .exception, sid := m.sid, fc := m.fc &&& 0x7F#8, err := m.err } := by
  have hmsb : (m.fc ||| 0x80#8).getLsbD 7 = true := by simp
  rw [encodeExcBody, decodeBody_exception hmsb, if_pos herr, or_msb_and_low]

/-! ### The round trips -/

/-- Settles O36: each clause is its shape class's decode of the encoded body. -/
theorem requestsDecodeToTheirMessage : Obligations.RequestsDecodeToTheirMessage := by
  intro m hlen hcount
  have hn := count_toNat hlen hcount
  refine ⟨fun h => decodeBody_encodeReqBody_read (shape_read_of_mem h),
    fun h => ⟨_, decodeBody_encodeReqBody_wsingle (shape_wsingle_of_mem h) .request⟩, ?_, ?_, ?_, ?_, ?_, ?_⟩
  · intro b hfc hvs
    rw [decodeBody_encodeReqBody_wsingle (shape_wsingle_of_mem (by simp [hfc])), firstCell_of_bit hfc hvs]
    rfl
  · intro w hfc hvs
    rw [decodeBody_encodeReqBody_wsingle (shape_wsingle_of_mem (by simp [hfc])), firstCell_of_word hfc hvs]
    rfl
  · intro bs hfc hvs hbs
    have hfits : (multiData m).length ≤ 255 := by
      rw [multiData_length hn, multiNeed, if_pos hfc, hn, hvs, List.length_map]
      omega
    rw [decodeBody_encodeReqBody_wmulti (shape_wmulti_of_mem (by simp [hfc])) hn, if_pos hfits,
      multiCells_multiData_bits hfc hvs hn]
  · intro ws hfc hvs hws
    have hfits : (multiData m).length ≤ 255 := by
      rw [multiData_length hn, multiNeed, if_neg (by simp [hfc]), hn, hvs, List.length_map]
      omega
    rw [decodeBody_encodeReqBody_wmulti (shape_wmulti_of_mem (by simp [hfc])) hn, if_pos hfits,
      multiCells_multiData_words hfc hvs]
  · intro h
    have hbad : m.fc ∈ [0x0F#8, 0x10#8] ∧ ¬ (multiData m).length ≤ 255 := by
      rw [multiData_length hn, multiNeed, hn]
      obtain ⟨hfc, hlong⟩ | ⟨hfc, hlong⟩ := h
      · rw [if_pos hfc]
        exact ⟨by simp [hfc], by omega⟩
      · rw [if_neg (by simp [hfc])]
        exact ⟨by simp [hfc], by omega⟩
    obtain ⟨hmem, hlong⟩ := hbad
    rw [decodeBody_encodeReqBody_wmulti (shape_wmulti_of_mem hmem) hn, if_neg hlong]
  · intro rs hfc hvs
    have hdiag : shape m.fc = .diag := shape_diag_of_eq hfc
    rw [encodeReqBody_of_diag_or_none (.inl hdiag), decodeBody_diag hdiag hlen, ← hcount, hvs, wordsFrom_wordsOf_map_raw]
    rfl

/-- Settles O37: as for requests; packed bits come back without padding where they fill whole bytes. -/
theorem responsesDecodeToTheirMessage : Obligations.ResponsesDecodeToTheirMessage := by
  intro m hlen hcount
  refine ⟨?_, ?_, ?_, fun h => decodeBody_encodeRspBody_wmulti (shape_wmulti_of_mem h), ?_, decodeBody_encodeExcBody⟩
  · intro bs hfc hvs hwhole hbs haddr
    obtain ⟨hshape, hbit⟩ := bitRead_of_mem hfc
    have hdata : readData m = pack bs := by rw [readData, if_pos hbit, hvs, bitsOf_map_bit]
    have hcells : readCells m.fc (pack bs) = m.values := by rw [readCells, if_pos hbit, unpack_pack hwhole, hvs]
    have hfits : (pack bs).length ≤ 255 := by
      rw [pack_length]
      omega
    rw [encodeRspBody_of_read hshape, hdata, decodeBody_read_response hshape hfits (.inl hbit), hcells, ← hcount, haddr]
  · intro ws hfc hvs hws haddr
    obtain ⟨hshape, hword⟩ := wordRead_of_mem hfc
    have hdata : readData m = wordsOf m.values := if_neg hword
    have hcells : readCells m.fc (wordsOf m.values) = m.values := by
      rw [readCells, if_neg hword, hvs, wordsFrom_wordsOf_map_word]
    have hbytes : (wordsOf m.values).length = 2 * ws.length := by rw [wordsOf_length, hvs, List.length_map]
    rw [encodeRspBody_of_read hshape, hdata, decodeBody_read_response hshape (by omega) (.inr (by omega)), hcells, ← hcount, haddr]
  · intro v hv hvs
    have hsingle : shape m.fc = .wsingle ∧ m.firstCell = v := by
      obtain ⟨hfc, b, rfl⟩ | ⟨hfc, w, rfl⟩ := hv
      · exact ⟨shape_wsingle_of_mem (by simp [hfc]), firstCell_of_bit hfc hvs⟩
      · exact ⟨shape_wsingle_of_mem (by simp [hfc]), firstCell_of_word hfc hvs⟩
    obtain ⟨hshape, hcell⟩ := hsingle
    rw [encodeRspBody_of_wsingle hshape, decodeBody_encodeReqBody_wsingle hshape, hcell]
    rfl
  · intro rs hfc hvs
    have hdiag : shape m.fc = .diag := shape_diag_of_eq hfc
    rw [encodeRspBody_of_diag_or_none (.inl hdiag), decodeBody_diag hdiag hlen, ← hcount, hvs, wordsFrom_wordsOf_map_raw]
    rfl

/-- Settles O38: the trailer is the CRC of the body, and the body is what stands before it. -/
theorem rtuFramesDecodeToTheirBody : Obligations.RtuFramesDecodeToTheirBody := by
  intro x role
  have hlen : ¬ (rtuFrame x).length < 2 := by simp
  have hcrc : crcCheck (rtuFrame x) = true := (crcCheck_append_iff x rfl).mpr rfl
  have hbody : (rtuFrame x).take ((rtuFrame x).length - 2) = x := List.take_left' (by simp)
  rw [decodeFrame, if_pos rfl, if_neg hlen, if_neg (by simp [hcrc]), hbody]

end Sys2Proof.Machine
end

section
/-! PROOFS. The statements about the codec: when a body of a recognised code decodes and to what, exception replies, the layout of the
encoded bodies, and what the six commands answer (42_codec.md). -/

namespace Sys2Proof.Machine

/-! ### Bodies of the recognised codes -/

theorem decodeReadRsp_bits {b : List Byte} (hbit : bitShape (byteAt b 1) = true) : decodeReadRsp b =
    if b.length = 3 + (byteAt b 2).toNat then
      .ok { kind := .response, sid := byteAt b 0, fc := byteAt b 1, count := BitVec.ofNat 16 (8 * (byteAt b 2).toNat),
            values := (unpack (b.drop 3)).map .bit }
    else .error .malformed := by
  refine (decodeReadRsp_eq b).trans (ite_congr (by simp [hbit]) (fun h => ?_) fun _ => rfl)
  have hdata : (b.drop 3).length = (byteAt b 2).toNat := by
    rw [List.length_drop]
    omega
  rw [readCells, if_pos hbit, List.length_map, unpack_length, hdata]

theorem decodeReadRsp_words {b : List Byte} (hword : ¬ bitShape (byteAt b 1) = true) : decodeReadRsp b =
    if b.length = 3 + (byteAt b 2).toNat ∧ (byteAt b 2).toNat % 2 = 0 then
      .ok { kind := .response, sid := byteAt b 0, fc := byteAt b 1, count := BitVec.ofNat 16 ((byteAt b 2).toNat / 2),
            values := ((List.range ((byteAt b 2).toNat / 2)).map fun i => rdBe16 b (3 + 2 * i)).map .word }
    else .error .malformed := by
  refine (decodeReadRsp_eq b).trans (ite_congr (by simp [hword]) (fun h => ?_) fun _ => rfl)
  have hwords := wordsFrom_drop (xs := b) (k := 3) (n := (byteAt b 2).toNat / 2) (by omega)
  rw [readCells, if_neg hword, hwords, List.length_map, List.length_map, List.length_range]

theorem decodeMultiReq_bits {b : List Byte} (hfc : byteAt b 1 = 0x0F#8) : decodeMultiReq b =
    if 7 ≤ b.length ∧ (byteAt b 6).toNat = ((rdBe16 b 4).toNat + 7) / 8 ∧ b.length = 7 + (byteAt b 6).toNat then
      .ok { kind := .request, sid := byteAt b 0, fc := 0x0F#8, addr := rdBe16 b 2, count := rdBe16 b 4,
            values := ((unpack (b.drop 7)).take (rdBe16 b 4).toNat).map .bit }
    else .error .malformed := by
  rw [decodeMultiReq_eq, hfc]
  rfl

theorem decodeMultiReq_words {b : List Byte} (hfc : byteAt b 1 = 0x10#8) : decodeMultiReq b =
    if 7 ≤ b.length ∧ (byteAt b 6).toNat = 2 * (rdBe16 b 4).toNat ∧ b.length = 7 + (byteAt b 6).toNat then
      .ok { kind := .request, sid := byteAt b 0, fc := 0x10#8, addr := rdBe16 b 2, count := rdBe16 b 4,
            values := ((List.range (rdBe16 b 4).toNat).map fun i => rdBe16 b (7 + 2 * i)).map .word }
    else .error .malformed := by
  rw [decodeMultiReq_eq, hfc]
  refine ite_congr rfl (fun ⟨_, hcount, hlen⟩ => ?_) fun _ => rfl
  have hwords := wordsFrom_drop (xs := b) (k := 7) (n := (rdBe16 b 4).toNat) (by omega)
  rw [← hwords]
  rfl

theorem decodeDiag_words {b : List Byte} (hfc : byteAt b 1 = 0x08#8) (role : Role) : decodeDiag b role =
    if 4 ≤ b.length ∧ (b.length - 4) % 2 = 0 ∧ (b.length - 4) / 2 ≤ 65535 then
      .ok { kind := role.kind, sid := byteAt b 0, fc := 0x08#8, addr := rdBe16 b 2,
            count := BitVec.ofNat 16 ((b.length - 4) / 2),
            values := ((List.range ((b.length - 4) / 2)).map fun i => rdBe16 b (4 + 2 * i)).map .raw }
    else .error .malformed := by
  rw [decodeDiag_eq, hfc, wordsFrom_drop rfl]

/-- The two values of a coil, 0xFF00 and 0x0000, byte by byte (30_encoding.md R99). -/
theorem singleCell_coil (hi lo : Byte) : singleCell 0x05#8 (joinBytes hi lo) =
    if (hi = 0xFF#8 ∨ hi = 0x00#8) ∧ lo = 0x00#8 then some (.bit (decide (hi = 0xFF#8))) else none := by
  have hon : joinBytes hi lo = 0xFF00#16 ↔ lo = 0x00#8 ∧ hi = 0xFF#8 := by
    rw [← le16_injective.eq_iff, le16_joinBytes]
    simp [le16]
  have hoff : joinBytes hi lo = 0x0000#16 ↔ lo = 0x00#8 ∧ hi = 0x00#8 := by
    rw [← le16_injective.eq_iff, le16_joinBytes]
    simp [le16]
  simp only [singleCell, hon, hoff, if_true]
  by_cases hlo : lo = 0x00#8
  · by_cases hhi : hi = 0xFF#8 <;> simp [hlo, hhi]
  · simp [hlo]

theorem decodeSingle_coil {b : List Byte} (hfc : byteAt b 1 = 0x05#8) (role : Role) : decodeSingle b role =
    if b.length = 6 ∧ (byteAt b 4 = 0xFF#8 ∨ byteAt b 4 = 0x00#8) ∧ byteAt b 5 = 0x00#8 then
      .ok { kind := role.kind, sid := byteAt b 0, fc := 0x05#8, addr := rdBe16 b 2, count := 1#16,
            values := [.bit (decide (byteAt b 4 = 0xFF#8))] }
    else .error .malformed := by
  have hcell : singleCell (byteAt b 1) (rdBe16 b 4) =
      if (byteAt b 4 = 0xFF#8 ∨ byteAt b 4 = 0x00#8) ∧ byteAt b 5 = 0x00#8 then some (.bit (decide (byteAt b 4 = 0xFF#8)))
      else none := by
    rw [hfc, rdBe16, singleCell_coil]
  split
  case isTrue h => rw [decodeSingle_of_cell h.1 (hcell.trans (if_pos h.2)), hfc]
  case isFalse h => exact decodeSingle_of_not (by simpa [hcell] using h) role

theorem decodeSingle_register {b : List Byte} (hfc : byteAt b 1 = 0x06#8) (role : Role) : decodeSingle b role =
    if b.length = 6 then
      .ok { kind := role.kind, sid := byteAt b 0, fc := 0x06#8, addr := rdBe16 b 2, count := 1#16, values := [.word (rdBe16 b 4)] }
    else .error .malformed := by
  have hcell : singleCell (byteAt b 1) (rdBe16 b 4) = some (.word (rdBe16 b 4)) := if_neg (by simp [hfc])
  split
  case isTrue h => rw [decodeSingle_of_cell h hcell, hfc]
  case isFalse h => exact decodeSingle_of_not (fun hfits => h hfits.1) role

/-- Settles O59: the body goes to its shape class's decoder, whose condition is the statement's with the words written out. -/
theorem recognisedBodiesDecodeExactlyWhereTheirFieldsFit : Obligations.RecognisedBodiesDecodeExactlyWhereTheirFieldsFit := by
  intro b role
  dsimp only
  simp only [← rdBe16_eq_append]
  refine ⟨fun h => ?_, fun h => ?_, fun h => ?_, fun h => ?_, fun h => ?_, fun h => ?_, fun h => ?_, fun h => ?_, fun h => ?_⟩
  · rw [decodeBody_of_shape (shape_read_of_mem h) nofun]
    exact decodeReadReq_eq b
  · obtain ⟨hshape, hbit⟩ := bitRead_of_mem h
    rw [decodeBody_of_shape hshape nofun]
    exact decodeReadRsp_bits hbit
  · obtain ⟨hshape, hword⟩ := wordRead_of_mem h
    rw [decodeBody_of_shape hshape nofun]
    exact decodeReadRsp_words hword
  · rw [decodeBody_of_shape (shape_wsingle_of_mem (by simp [h])) nofun]
    exact decodeSingle_coil h role
  · rw [decodeBody_of_shape (shape_wsingle_of_mem (by simp [h])) nofun]
    exact decodeSingle_register h role
  · rw [decodeBody_of_shape (shape_wmulti_of_mem (by simp [h])) nofun]
    exact decodeMultiReq_bits h
  · rw [decodeBody_of_shape (shape_wmulti_of_mem (by simp [h])) nofun]
    exact decodeMultiReq_words h
  · rw [decodeBody_of_shape (shape_wmulti_of_mem h) nofun]
    exact decodeMultiRsp_eq b
  · rw [decodeBody_of_shape (shape_diag_of_eq h) nofun]
    exact decodeDiag_words h role

/-! ### Exception replies and the kind of a decoded message -/

theorem decodeSingle_kind {b : List Byte} {role : Role} {m : Msg} (h : decodeSingle b role = .ok m) : m.kind = role.kind := by
  by_cases hfits : b.length = 6 ∧ singleCell (byteAt b 1) (rdBe16 b 4) ≠ none
  · obtain ⟨v, hv⟩ := Option.ne_none_iff_exists'.mp hfits.2
    rw [decodeSingle_of_cell hfits.1 hv] at h
    cases h
    rfl
  · rw [decodeSingle_of_not hfits] at h
    cases h

theorem decodeShape_request_kind {sh : Shape} {b : List Byte} {m : Msg} (h : decodeShape sh b .request = .ok m) :
    m.kind = .request := by
  cases sh with
  | read =>
    simp only [decodeShape, decodeReadReq_eq] at h
    split at h <;> cases h
    rfl
  | wsingle => exact decodeSingle_kind h
  | wmulti =>
    simp only [decodeShape, decodeMultiReq_eq] at h
    split at h <;> cases h
    rfl
  | diag =>
    simp only [decodeShape, decodeDiag_eq] at h
    split at h <;> cases h
    rfl
  | none => cases h

theorem decodeBody_request_kind {b : List Byte} {m : Msg} (h : decodeBody b .request = .ok m) : m.kind = .request := by
  by_cases hlen : 2 ≤ b.length
  · rw [decodeBody_eq_decodeShape hlen (by simp)] at h
    exact decodeShape_request_kind h
  · unfold decodeBody at h
    rw [if_pos (by omega)] at h
    cases h

theorem decodeFrame_request_kind {b : List Byte} {v : Bool} {m : Msg} (h : decodeFrame b v .request = .ok m) :
    m.kind = .request := by
  unfold decodeFrame at h
  split at h
  · split at h
    · cases h
    split at h
    · cases h
    · exact decodeBody_request_kind h
  · exact decodeBody_request_kind h

/-- Settles O35: byte 1 sends the body to the exception decoder, and no decoder of the request role answers another kind. -/
theorem exceptionRepliesAreRecognisedFirst : Obligations.ExceptionRepliesAreRecognisedFirst :=
  ⟨fun sid _ err hmsb => ⟨fun h => (decodeBody_exception hmsb sid err).trans (if_pos h),
      fun h => (decodeBody_exception hmsb sid err).trans (if_neg h)⟩,
    fun _ hlen => if_pos hlen, fun _ hlen hmsb => decodeBody_of_msb hlen hmsb, fun _ _ h => decodeBody_request_kind h⟩

/-! ### The layout of the encoded bodies -/

/-- Settles O29: the body of each shape class with its value coerced and its words split into bytes. -/
theorem requestBodiesHaveTheirLayout : Obligations.RequestBodiesHaveTheirLayout := by
  intro m
  dsimp only
  refine ⟨fun h => encodeReqBody_of_read (shape_read_of_mem h), fun h => ?_, fun h => ?_, fun h => ?_, fun h => ?_,
    fun h => ?_⟩
  · rw [encodeReqBody_of_wsingle (shape_wsingle_of_mem (by simp [h])), singleValue_of_coil h]
    cases m.values with
    | nil => rfl
    | cons v vs => exact congrArg (header m ++ ·) (apply_ite be16 (v.bitOf = true) 0xFF00#16 0x0000#16)
  · rw [encodeReqBody_of_wsingle (shape_wsingle_of_mem (by simp [h])), singleValue_of_not_coil (by simp [h])]
    cases m.values with
    | nil => rfl
    | cons v vs => rfl
  · rw [encodeReqBody_of_wmulti (shape_wmulti_of_mem (by simp [h])), multiData, if_pos h]
    rfl
  · rw [encodeReqBody_of_wmulti (shape_wmulti_of_mem (by simp [h])), multiData, if_neg (by simp [h]), byteCount, wordsOf_length]
    rfl
  · exact encodeReqBody_of_diag_or_none (shape_of_not_mem h)

/-- Settles O30: as for requests; a READ response has its data behind the byte count. -/
theorem responseBodiesHaveTheirLayout : Obligations.ResponseBodiesHaveTheirLayout := by
  intro m
  dsimp only
  refine ⟨fun h => ?_, fun h => ?_, fun h => encodeRspBody_of_wsingle (shape_wsingle_of_mem h),
    fun h => encodeRspBody_of_wmulti (shape_wmulti_of_mem h), fun h => ?_⟩
  · obtain ⟨hshape, hbit⟩ := bitRead_of_mem h
    rw [encodeRspBody_of_read hshape, readData, if_pos hbit]
    rfl
  · obtain ⟨hshape, hword⟩ := wordRead_of_mem h
    rw [encodeRspBody_of_read hshape, readData, if_neg hword, byteCount, wordsOf_length]
    rfl
  · exact encodeRspBody_of_diag_or_none (shape_of_not_mem h)

/-! ### The commands -/

@[simp] theorem exec_encodeReq (s : State) :
    exec .encodeReq s = .next (finish .ok { s with txb := { s.txb with bytes := encodeReqBody (txMessage s) } }) := rfl

@[simp] theorem exec_encodeRsp (s : State) :
    exec .encodeRsp s = .next (finish .ok { s with txb := { s.txb with bytes := encodeRspBody (txMessage s) } }) := rfl

@[simp] theorem exec_encodeExc (s : State) :
    exec .encodeExc s = .next (finish .ok { s with txb := { s.txb with bytes := encodeExcBody (txMessage s) } }) := rfl

@[simp] theorem exec_decodeReq (v : Bool) (s : State) :
    exec (.decodeReq v) s = .next (settleDecode (decodeFrame s.acc.bytes v .request) 0 s.acc.bytes.length s) := rfl

@[simp] theorem exec_decodeRsp (v : Bool) (s : State) :
    exec (.decodeRsp v) s = .next (settleDecode (decodeFrame s.acc.bytes v .response) 0 s.acc.bytes.length s) := rfl

@[simp] theorem exec_excTest (v : Bool) (s : State) :
    exec (.excTest v) s = .next (finish .ok { s with status := { s.status with pred := isExc (excTestBody v s.acc.bytes) } }) := rfl

/-- Settles O28: TXBUF takes the encoder's body, and the rest is the state's. -/
theorem encodeCommandsReplaceTheTransmitBuffer : Obligations.EncodeCommandsReplaceTheTransmitBuffer :=
  fun s => ⟨exec_encodeReq s, exec_encodeRsp s, exec_encodeExc s⟩

/-- Settles O32: both commands settle the decode of ACC in their role. -/
theorem decodeCommandsCommitOrReport : Obligations.DecodeCommandsCommitOrReport := by
  refine fun s v => ⟨fun i role hi => ?_, fun _ h => decodeFrame_request_kind h⟩
  have hexec : exec i s = .next (settleDecode (decodeFrame s.acc.bytes v role) 0 s.acc.bytes.length s) := by
    obtain ⟨rfl, rfl⟩ | ⟨rfl, rfl⟩ := hi
    · exact exec_decodeReq v s
    · exact exec_decodeRsp v s
  rw [hexec]
  refine ⟨fun m hm => ?_, fun he => ?_, fun he => ?_, fun he => ?_⟩
  · rw [hm, ← successCode_eq]
    rfl
  all_goals rw [he]; rfl

/-- Cutting more bytes than there are leaves none, so in every case the body is the first bytes of ACC (R170). -/
theorem excTestBody_eq_take (v : Bool) (acc : List Byte) :
    excTestBody v acc = acc.take (if v then acc.length - 2 else acc.length) := by
  cases v with
  | false => exact List.take_length.symm
  | true =>
    by_cases hlen : 2 ≤ acc.length
    · exact if_pos hlen
    · rw [if_pos rfl, Nat.sub_eq_zero_of_le (by omega), List.take_zero]
      exact if_neg hlen

theorem isExc_take {bs : List Byte} {n : Nat} (hn : n ≤ bs.length) :
    isExc (bs.take n) = (decide (3 ≤ n) && (byteAt bs 1).getLsbD 7) := by
  rw [isExc, List.length_take_of_le hn]
  by_cases hlen : 3 ≤ n
  · rw [byteAt_take bs (by omega)]
  · simp only [hlen, decide_false, Bool.false_and]

/-- Settles O33: the body is the first bytes of ACC, and where it has three its byte 1 is that of ACC. -/
theorem exceptionTestSetsPred : Obligations.ExceptionTestSetsPred := by
  intro s v n hn
  have hle : n ≤ s.acc.bytes.length := by
    rw [hn]
    split <;> omega
  rw [exec_excTest, excTestBody_eq_take, ← hn, isExc_take hle]
  rfl

end Sys2Proof.Machine
end

section
/-! PROOFS. The statements about transport framing: what the MBAP deframer answers, case by case, that an MBAP frame parses back, and what
the four commands answer (43_framing.md). -/

namespace Sys2Proof.Machine

/-! ### The MBAP deframer -/

theorem decodeFrame_unverified (buf : List Byte) (role : Role) : decodeFrame buf false role = decodeBody buf role := rfl

theorem mbapParse_of_short {buf : List Byte} (h : buf.length < 6) (role : Role) : mbapParse buf role = .noHeader := if_pos h

theorem mbapParse_of_bad_length {buf : List Byte} (h6 : 6 ≤ buf.length)
    (hbad : mbapLength buf < 2 ∨ buf.length < 6 + mbapLength buf) (role : Role) :
    mbapParse buf role = .header (rdBe16 buf 0) (.error .malformed) 0 := by
  rw [mbapParse, if_neg (Nat.not_lt.mpr h6)]
  by_cases hshort : mbapLength buf < 2
  · rw [if_pos hshort]
  · rw [if_neg hshort, if_pos (hbad.resolve_left hshort)]

theorem mbapParse_of_complete {buf : List Byte} {role : Role} {r : Except DecodeErr Msg} (h2 : 2 ≤ mbapLength buf)
    (hfits : 6 + mbapLength buf ≤ buf.length) (hr : decodeBody ((buf.drop 6).take (mbapLength buf)) role = r) :
    mbapParse buf role = .header (rdBe16 buf 0) r (6 + mbapLength buf) := by
  rw [mbapParse, if_neg (by omega), if_neg (Nat.not_lt.mpr h2), if_neg (Nat.not_lt.mpr hfits), decodeFrame_unverified, hr]

/-! ### The fields of an MBAP frame -/

section
variable (t : Half) (x : List Byte)

@[simp] theorem rdBe16_mbapFrame_zero : rdBe16 (mbapFrame t x) 0 = t := joinBytes_extract _

@[simp] theorem mbapLength_mbapFrame : mbapLength (mbapFrame t x) = x.length % 65536 :=
  calc (rdBe16 (mbapFrame t x) 4).toNat
      = (BitVec.ofNat 16 x.length).toNat := congrArg BitVec.toNat (joinBytes_extract _)
    _ = x.length % 65536 := BitVec.toNat_ofNat _ _

@[simp] theorem drop_mbapFrame : (mbapFrame t x).drop 6 = x := rfl

end

/-- Settles O42: a length below 2^16 is declared uncut, so the frame is complete and its payload is the body. -/
theorem mbapFramesParseBack : Obligations.MbapFramesParseBack := by
  intro x t role h2 hmax
  have hlen : mbapLength (mbapFrame t x) = x.length := by
    rw [mbapLength_mbapFrame, Nat.mod_eq_of_lt (by omega)]
  have hfits : 6 + mbapLength (mbapFrame t x) ≤ (mbapFrame t x).length := by
    rw [hlen, mbapFrame_length, Nat.add_comm]
  rw [mbapParse_of_complete (hlen ▸ h2) hfits rfl, hlen, rdBe16_mbapFrame_zero, drop_mbapFrame, List.take_length]

/-! ### The commands -/

@[simp] theorem exec_rtuFrame (s : State) :
    exec .rtuFrame s = .next (finish .ok { s with txb := { s.txb with bytes := rtuFrame s.txb.bytes } }) := rfl

@[simp] theorem exec_mbapFrame (tid : Half) (s : State) :
    exec (.mbapFrame tid) s = .next (finish .ok { s with txb := { s.txb with bytes := mbapFrame tid s.txb.bytes } }) := rfl

@[simp] theorem exec_mbapDeframeReq (s : State) :
    exec .mbapDeframeReq s = .next (settleMbap (mbapParse s.acc.bytes .request) s) := rfl

@[simp] theorem exec_mbapDeframeRsp (s : State) :
    exec .mbapDeframeRsp s = .next (settleMbap (mbapParse s.acc.bytes .response) s) := rfl

/-- The length field of a header is the length modulo 2^16 (R193), high byte first. -/
theorem be16_ofNat (n : Nat) : be16 (BitVec.ofNat 16 n) = [BitVec.ofNat 8 (n / 256), BitVec.ofNat 8 n] := by
  have hhigh : (BitVec.ofNat 16 n).extractLsb' 8 8 = BitVec.ofNat 8 (n / 256) := by
    apply BitVec.eq_of_toNat_eq
    rw [BitVec.extractLsb'_toNat, BitVec.toNat_ofNat, BitVec.toNat_ofNat, Nat.shiftRight_eq_div_pow]
    omega
  have hlow : (BitVec.ofNat 16 n).extractLsb' 0 8 = BitVec.ofNat 8 n := by
    apply BitVec.eq_of_toNat_eq
    rw [BitVec.extractLsb'_toNat, BitVec.toNat_ofNat, BitVec.toNat_ofNat, Nat.shiftRight_zero]
    omega
  rw [be16, hhigh, hlow]

/-- Settles O40: the trailer is `le16` of the CRC, the header `be16` of the ID, 0 and the length. -/
theorem frameCommandsExtendTheTransmitBuffer : Obligations.FrameCommandsExtendTheTransmitBuffer := by
  refine fun s => ⟨exec_rtuFrame s, fun tid => ?_⟩
  rw [exec_mbapFrame, mbapFrame, be16_ofNat]
  rfl

/-- RX_LEN shows the length of an MBAP frame as it is: the largest length field keeps it below 2^32. -/
theorem wordOfLength_mbap (len : Half) : wordOfLength (6 + len.toNat) = BitVec.ofNat 32 (6 + len.toNat) := by
  have hlt : len.toNat < 2 ^ 16 := len.isLt
  exact if_pos (by omega)

/-- Settles O41: both commands settle what the deframer answers for ACC in their role. -/
theorem mbapDeframeCommandsCommitOrReport : Obligations.MbapDeframeCommandsCommitOrReport := by
  intro s i role hi
  have hexec : exec i s = .next (settleMbap (mbapParse s.acc.bytes role) s) := by
    obtain ⟨rfl, rfl⟩ | ⟨rfl, rfl⟩ := hi
    · exact exec_mbapDeframeReq s
    · exact exec_mbapDeframeRsp s
  rw [hexec]
  refine ⟨fun hshort => ?_, fun h6 => ⟨fun hbad => ?_, fun h2 hfits => ?_⟩⟩
  · rw [mbapParse_of_short hshort]
    rfl
  · rw [mbapParse_of_bad_length h6 hbad]
    rfl
  · refine ⟨fun m hm => ?_, fun e he => ?_⟩
    · rw [mbapParse_of_complete h2 hfits hm, ← successCode_eq, ← wordOfLength_mbap]
      rfl
    · rw [mbapParse_of_complete h2 hfits he]
      rfl

end Sys2Proof.Machine
end

section
/-! PROOFS. The connection commands (44_connection.md R210 to R219): what OPEN_*, CLOSE, SEND_* and AWAIT_* answer in every state, and the
transaction IDs that a run of requests takes (R237). -/

namespace Sys2Proof.Machine

/-! ### OPEN_* and CLOSE -/

@[simp] theorem exec_openRtu (s : State) : exec .openRtu s = .next (openWith .rtu s) := rfl

@[simp] theorem exec_openTcp (s : State) : exec .openTcp s = .next (openWith .tcp s) := rfl

@[simp] theorem exec_close (s : State) : exec .close s = .next (closeConnection s) := rfl

/-- Settles O43, by what OPEN does on a closed connection and on an open one. -/
theorem openStartsALifetime : Obligations.OpenStartsALifetime := by
  intro s i tr hi
  have hexec : exec i s = .next (openWith tr s) := by
    obtain ⟨rfl, rfl⟩ | ⟨rfl, rfl⟩ := hi
    · exact exec_openRtu s
    · exact exec_openTcp s
  rw [hexec]
  refine ⟨fun hclosed => ?_, fun hopen => ?_⟩
  · rw [openWith_of_closed hclosed]
    rfl
  · rw [openWith_of_open hopen]
    rfl

/-- Settles O44: the channel's log grows only where `close_issued` was 0. -/
theorem closeEndsALifetime : Obligations.CloseEndsALifetime := by
  intro s
  rw [exec_close, closeConnection_eq]
  cases s.closeIssued <;> rfl

/-! ### SEND_* -/

/-- The state after a channel write of the frame has been made and its answer reported (44_connection.md R214, R217). -/
def State.sent (s : State) (frame : List Byte) : State :=
  { s with
    txb := { s.txb with bytes := frame }
    status := s.status.finished (match writeAnswer s, s.status.transport with
      | .ok, _ => .ok
      | .err, .rtu => .slaveDeviceFailure
      | .err, .tcp => .protocolError)
    env := { s.env with
      writeAnswers := s.env.writeAnswers.tail
      draws := if s.env.writeAnswers = [] then s.env.draws + 1 else s.env.draws
      chanLog := s.env.chanLog ++ [.write frame (writeAnswer s)] } }

theorem sendFrame_eq_sent (frame : List Byte) (s : State) : sendFrame frame s = s.sent frame := by
  rw [sendFrame_eq]
  cases ha : writeAnswer s <;> cases ht : s.status.transport <;>
    simp [State.sent, Status.finished, chanWrite, transportFailure, List.isEmpty_iff, ha, ht]

@[simp] theorem exec_sendResponse (s : State) : exec .sendResponse s = .next (sendReply (encodeRspBody (txMessage s)) s) := rfl

@[simp] theorem exec_sendException (s : State) : exec .sendException s = .next (sendReply (encodeExcBody (txMessage s)) s) := rfl

section
variable {s : State}

theorem exec_sendRequest_of_closed (hclosed : s.status.isOpen = false) :
    exec .sendRequest s = .next (finish .connectionClosed s) := by
  simp [exec, execSendRequest, hclosed]

/-- A request over RTU takes no transaction ID (44_connection.md R214). -/
theorem exec_sendRequest_rtu (hopen : s.status.isOpen = true) (htr : s.status.transport = .rtu) :
    exec .sendRequest s = .next (s.sent (rtuFrame (encodeReqBody (txMessage s)))) := by
  simp [exec, execSendRequest, hopen, htr, frameFor, assignTid, sendFrame_eq_sent]

/-- A request over TCP carries TID_NEXT, which becomes TID_OUT and advances whatever the channel answers (44_connection.md R214). -/
theorem exec_sendRequest_tcp (hopen : s.status.isOpen = true) (htr : s.status.transport = .tcp) :
    exec .sendRequest s = .next
      { s.sent (mbapFrame s.tidNext (encodeReqBody (txMessage s))) with tidOut := s.tidNext, tidNext := s.tidNext + 1#16 } := by
  simp only [exec, execSendRequest, hopen, htr, frameFor, assignTid, sendFrame_eq_sent, if_true]
  rfl

theorem sendReply_rtu (hopen : s.status.isOpen = true) (htr : s.status.transport = .rtu) (body : List Byte) :
    sendReply body s = s.sent (rtuFrame body) := by
  rw [sendReply_of_open hopen, htr, sendFrame_eq_sent, frameFor]

/-- A reply over TCP carries TID_RX (44_connection.md R215, R216). -/
theorem sendReply_tcp (hopen : s.status.isOpen = true) (htr : s.status.transport = .tcp) (body : List Byte) :
    sendReply body s = s.sent (mbapFrame s.tidRx body) := by
  have htid : replyTid s = s.tidRx := by simp only [replyTid, htr]
  rw [sendReply_of_open hopen, htr, htid, sendFrame_eq_sent, frameFor]

end

/-- Settles O46, transport by transport. -/
theorem sendCommandsWriteOneFrame : Obligations.SendCommandsWriteOneFrame := by
  intro s
  refine ⟨fun hopen htr => ⟨?_, ?_, ?_⟩, fun hopen htr => ⟨?_, ?_, ?_⟩, fun hclosed i hi => ?_⟩
  · exact exec_sendRequest_rtu hopen htr
  · exact congrArg Host.Outcome.next (sendReply_rtu hopen htr _)
  · exact congrArg Host.Outcome.next (sendReply_rtu hopen htr _)
  · exact exec_sendRequest_tcp hopen htr
  · exact congrArg Host.Outcome.next (sendReply_tcp hopen htr _)
  · exact congrArg Host.Outcome.next (sendReply_tcp hopen htr _)
  · simp only [List.mem_cons, List.not_mem_nil, or_false] at hi
    obtain rfl | rfl | rfl := hi
    · exact exec_sendRequest_of_closed hclosed
    · exact congrArg Host.Outcome.next (sendReply_of_closed hclosed)
    · exact congrArg Host.Outcome.next (sendReply_of_closed hclosed)

/-! ### The transaction IDs of a run of requests -/

theorem execAll_cons {i : Instr} {is : List Instr} {s t : State} (h : exec i s = .next t) :
    execAll (i :: is) s = execAll is t := by
  rw [execAll, h]

/-- On an open TCP connection `n` requests take the next `n` transaction IDs (44_connection.md R237). -/
theorem execAll_sendRequest (n : Nat) {s : State} (hopen : s.status.isOpen = true) (htr : s.status.transport = .tcp) :
    ∃ t, execAll (List.replicate n .sendRequest) s = .next t ∧ t.tidNext = s.tidNext + BitVec.ofNat 16 n ∧
      t.tidOut = if n = 0 then s.tidOut else s.tidNext + BitVec.ofNat 16 (n - 1) := by
  induction n generalizing s with
  | zero => exact ⟨s, rfl, (BitVec.add_zero _).symm, rfl⟩
  | succ n ih =>
    obtain ⟨t, hrun, hnext, hout⟩ := ih
      (s := { s.sent (mbapFrame s.tidNext (encodeReqBody (txMessage s))) with tidOut := s.tidNext, tidNext := s.tidNext + 1#16 })
      hopen htr
    have hshift (k : Nat) : s.tidNext + 1#16 + BitVec.ofNat 16 k = s.tidNext + BitVec.ofNat 16 (k + 1) := by
      rw [BitVec.add_assoc, BitVec.add_comm 1#16, BitVec.ofNat_add]
    refine ⟨t, (execAll_cons (exec_sendRequest_tcp hopen htr)).trans hrun, hnext.trans (hshift n), hout.trans ?_⟩
    rw [if_neg n.succ_ne_zero, Nat.add_sub_cancel]
    cases n with
    | zero => exact (BitVec.add_zero _).symm
    | succ k => exact hshift k

/-- Settles O47: OPEN_TCP loads TID_NEXT from TID_INIT, and the requests count up from there. -/
theorem transactionIdsCountUp : Obligations.TransactionIdsCountUp := by
  intro s n hclosed
  have hopened := openWith_of_closed (t := .tcp) hclosed
  obtain ⟨t, hrun, hnext, hout⟩ :=
    execAll_sendRequest n (s := openWith .tcp s) (by rw [hopened]) (by rw [hopened])
  rw [hopened] at hnext hout
  exact ⟨t, (execAll_cons (exec_openTcp s)).trans hrun, hnext, fun hn => hout.trans (if_pos hn),
    fun hn => hout.trans (if_neg (Nat.ne_of_gt hn))⟩

/-! ### AWAIT_* -/

@[simp] theorem exec_awaitResponse (s : State) : exec .awaitResponse s = .next (startExchange .response s) := rfl

@[simp] theorem exec_awaitRequest (s : State) : exec .awaitRequest s = .next (startExchange .request s) := rfl

/-- Settles O48, by what AWAIT_* does on an open connection and on a closed one. -/
theorem awaitStartsAnExchange : Obligations.AwaitStartsAnExchange := by
  intro s i role hi
  have hexec : exec i s = .next (startExchange role s) := by
    obtain ⟨rfl, rfl⟩ | ⟨rfl, rfl⟩ := hi
    · exact exec_awaitResponse s
    · exact exec_awaitRequest s
  rw [hexec]
  exact ⟨fun hopen => congrArg Host.Outcome.next (startExchange_of_open hopen),
    fun hclosed => congrArg Host.Outcome.next (startExchange_of_closed hclosed)⟩

end Sys2Proof.Machine
end

section
/-! PROOFS. The read loop (44_connection.md R220 to R239): when the engine has a step, what the read step does with each answer of the
channel on RTU and on TCP, the transitions of the state machine, and the end of an exchange at the read limit. -/

namespace Sys2Proof.Machine

variable {s t : State}

/-! ### The engine's turn -/

theorem engineEnabled_iff (st : Status) :
    engineEnabled st = true ↔ st.busy = true ∧ (st.fsm = .awaitingFrame ∨ st.fsm = .retrying) := by
  simp [engineEnabled]

theorem engineTurn_of_enabled (h : engineEnabled s.status = true) : engineTurn s = readStep s := if_pos h

theorem engineTurn_of_disabled (h : ¬ engineEnabled s.status = true) : engineTurn s = .next s := if_neg h

theorem step_of_no_turn (hs : s.env.script = []) : step s = engineTurn s := by
  simp only [step, takeTurn, hs]

theorem step_of_engine_turn {rest : List Turn} (hs : s.env.script = .engine :: rest) :
    step s = engineTurn (s.withScript rest) := by
  simp only [step, takeTurn, hs, popTurn_eq_withScript, List.tail_cons]

/-- Settles O49: with no turn listed or with its own, the step is the engine's turn. -/
theorem engineStepsExactlyWhileWaiting : Obligations.EngineStepsExactlyWhileWaiting := by
  intro s
  refine ⟨fun hb hf => ?_, fun hno => ?_⟩
  · have hen : engineEnabled s.status = true := (engineEnabled_iff _).mpr ⟨hb, hf⟩
    exact ⟨fun hs => (step_of_no_turn hs).trans (engineTurn_of_enabled hen),
      fun rest hs => (step_of_engine_turn hs).trans (engineTurn_of_enabled hen)⟩
  · rw [← engineEnabled_iff] at hno
    exact ⟨fun hs => (step_of_no_turn hs).trans (engineTurn_of_disabled hno),
      fun rest hs => (step_of_engine_turn hs).trans (engineTurn_of_disabled hno)⟩

/-! ### The read step, answer by answer -/

theorem readStep_of_wf (hw : (readAnswer s).wf = true) : readStep s = .next (afterRead (readAnswer s) (chanRead s)) := if_pos hw

/-- A read answered with data is an attempt on what it leaves in ACC (44_connection.md R226, R227). -/
theorem readStep_of_data {bs : List Byte} (ha : readAnswer s = .data bs) (hw : (readAnswer s).wf = true) :
    readStep s = .next (attempt (s.afterData bs)) := by
  rw [readStep_of_wf hw, ha, afterRead, appendAcc_chanRead]

/-- Settles O50: these answers have their shape, and the step is the read and then `fatal`. -/
theorem channelFailuresEndTheExchange : Obligations.ChannelFailuresEndTheExchange := by
  intro s
  have hread {a : ReadAnswer} (ha : readAnswer s = a) (hw : a.wf = true) : readStep s = .next (afterRead a (chanRead s)) :=
    ha ▸ readStep_of_wf (ha.symm ▸ hw)
  refine ⟨fun ha => ?_, fun ha => ?_, fun ha htr => ?_, fun ha htr => ?_⟩ <;>
    rw [hread ha rfl, chanRead_eq]
  · rfl
  · rfl
  · simp only [afterRead, htr]
    rfl
  · simp only [afterRead, htr]
    rfl

/-! ### RTU -/

theorem attempt_rtu (htr : s.status.transport = .rtu) : attempt s = settleSync (rtuSync s.acc.bytes s.status.role) s := by
  simp only [attempt, htr]

/-- The suffix scan stops at the first suffix that decodes. -/
theorem rtuScan_of_first {role : Role} {m : Msg} {bs : List Byte} {k : Nat} (hk : k < bs.length)
    (hd : decodeFrame (bs.drop k) true role = .ok m) (hfirst : ∀ j < k, ∀ m', decodeFrame (bs.drop j) true role ≠ .ok m')
    (start : Nat) : rtuScan role start bs = some (m, start + k, bs.length - k) := by
  induction bs generalizing k start with
  | nil => simp at hk
  | cons b bs ih =>
    rw [rtuScan]
    cases k with
    | zero =>
      rw [List.drop_zero] at hd
      rw [hd]
      rfl
    | succ k =>
      cases h0 : decodeFrame (b :: bs) true role with
      | ok m' => exact absurd h0 (hfirst 0 k.succ_pos m')
      | error e =>
        have hrest := ih (Nat.lt_of_succ_lt_succ hk) hd (fun j hj => hfirst (j + 1) (Nat.succ_lt_succ hj)) (start + 1)
        simp only [hrest, List.length_cons, Nat.add_sub_add_right, Nat.add_right_comm, Nat.add_assoc]

/-- The suffix scan finds nothing where no suffix decodes. -/
theorem rtuScan_of_none {role : Role} {bs : List Byte}
    (hnone : ∀ k < bs.length, ∀ m, decodeFrame (bs.drop k) true role ≠ .ok m) (start : Nat) : rtuScan role start bs = none := by
  cases hr : rtuScan role start bs with
  | none => rfl
  | some p =>
    obtain ⟨m, a, n⟩ := p
    obtain ⟨j, hj, -, -, hd⟩ := rtuScan_found hr
    exact absurd hd (hnone j hj m)

/-- Settles O51: the scan of ACC from offset 0 answers the first suffix that decodes, or none. -/
theorem rtuReadAcceptsTheFirstSuffixThatDecodes : Obligations.RtuReadAcceptsTheFirstSuffixThatDecodes := by
  intro s bs ha hw htr u
  have hread : readStep s = .next (settleSync (rtuSync u.acc.bytes s.status.role) u) :=
    (readStep_of_data ha hw).trans (congrArg _ (attempt_rtu htr))
  refine ⟨fun k m hk hd hfirst => ?_, fun e hnone he => ?_⟩
  · rw [hread, rtuSync, rtuScan_of_first hk hd hfirst, Nat.zero_add, ← accept_eq_withFrame]
    rfl
  · rw [hread, rtuSync, rtuScan_of_none hnone, he, ← notYet_eq_withoutFrame]
    rfl

/-! ### TCP -/

theorem attempt_tcp_of_noHeader (htr : s.status.transport = .tcp) (hp : mbapParse s.acc.bytes s.status.role = .noHeader) :
    attempt s = s.withoutFrame .malformed := by
  simp only [attempt, htr, hp, settleSync, notYet_eq_withoutFrame]

theorem attempt_tcp_of_header {tid : Half} {r : Except DecodeErr Msg} {n : Nat} (htr : s.status.transport = .tcp)
    (hp : mbapParse s.acc.bytes s.status.role = .header tid r n) :
    attempt s = settleSync (tcpJudge s.status.role s.tidOut tid r n) { s with tidRx := tid } := by
  simp only [attempt, htr, hp]

/-- With 6 bytes the header is complete, whatever it declares (43_framing.md R195). -/
theorem mbapParse_of_header {buf : List Byte} (h6 : 6 ≤ buf.length) (role : Role) :
    ∃ r n, mbapParse buf role = .header (rdBe16 buf 0) r n := by
  by_cases hbad : mbapLength buf < 2 ∨ buf.length < 6 + mbapLength buf
  · exact ⟨_, _, mbapParse_of_bad_length h6 hbad role⟩
  · obtain ⟨h2, hfits⟩ := not_or.mp hbad
    exact ⟨_, _, mbapParse_of_complete (Nat.not_lt.mp h2) (Nat.not_lt.mp hfits) rfl⟩

/-- Settles O52: the ID is judged before the decode is looked at. -/
theorem wrongTransactionIdEndsTheExchange : Obligations.WrongTransactionIdEndsTheExchange := by
  intro s bs ha hw htr hrole h6 htid
  obtain ⟨r, n, hp⟩ := mbapParse_of_header h6 (s.afterData bs).status.role
  have hjudge : tcpJudge s.status.role s.tidOut (rdBe16 (s.afterData bs).acc.bytes 0) r n = .fatal .invalidMessageId :=
    if_pos ⟨hrole, htid⟩
  calc readStep s = .next (attempt (s.afterData bs)) := readStep_of_data ha hw
    _ = .next (settleSync (tcpJudge s.status.role s.tidOut (rdBe16 (s.afterData bs).acc.bytes 0) r n) _) :=
      congrArg _ (attempt_tcp_of_header htr hp)
    _ = _ := by rw [hjudge]; rfl

/-- In the request role, and for the ID of the request, the ID is accepted (44_connection.md R229). -/
theorem not_wrongId {role : Role} {tid tidOut : Half} (hid : role = .request ∨ tid = tidOut) :
    ¬ (role = .response ∧ tid ≠ tidOut) := by
  rintro ⟨rfl, hne⟩
  exact hid.elim nofun hne

theorem attempt_tcp_of_ok {tid : Half} {m : Msg} {n : Nat} (htr : s.status.transport = .tcp)
    (hid : s.status.role = .request ∨ tid = s.tidOut) (hp : mbapParse s.acc.bytes s.status.role = .header tid (.ok m) n) :
    attempt s = State.withFrame { s with tidRx := tid } m 0 n := by
  rw [attempt_tcp_of_header htr hp, tcpJudge, if_neg (not_wrongId hid), ← accept_eq_withFrame]
  rfl

theorem attempt_tcp_of_error {tid : Half} {e : DecodeErr} {n : Nat} (htr : s.status.transport = .tcp)
    (hid : s.status.role = .request ∨ tid = s.tidOut) (hp : mbapParse s.acc.bytes s.status.role = .header tid (.error e) n) :
    attempt s = State.withoutFrame { s with tidRx := tid } e := by
  rw [attempt_tcp_of_header htr hp, tcpJudge, if_neg (not_wrongId hid), ← notYet_eq_withoutFrame]
  rfl

/-- Settles O53, by what the deframer answers for the header and the length. -/
theorem tcpReadAcceptsTheDeclaredBody : Obligations.TcpReadAcceptsTheDeclaredBody := by
  intro s bs ha hw htr u len v
  have hread {w : State} (hattempt : attempt u = w) : readStep s = .next w := hattempt ▸ readStep_of_data ha hw
  refine ⟨fun hshort => hread (attempt_tcp_of_noHeader htr (mbapParse_of_short hshort _)), fun h6 hid => ⟨fun hbad => ?_,
    fun h2 hfits => ⟨fun m hm => ?_, fun e he => ?_⟩⟩⟩
  · exact hread (attempt_tcp_of_error htr hid (mbapParse_of_bad_length h6 hbad _))
  · exact hread (attempt_tcp_of_ok htr hid (mbapParse_of_complete h2 hfits hm))
  · exact hread (attempt_tcp_of_error htr hid (mbapParse_of_complete h2 hfits he))

/-! ### The transitions of the state machine -/

/-- The codes that end an exchange with FSM Failed (44_connection.md R220). -/
def fatalCodes : List ResultCode := [.connectionClosed, .timeout, .slaveDeviceFailure, .protocolError, .invalidMessageId]

/-- How an exchange moves on: a frame, a failed attempt, or a fatal code (44_connection.md R220). -/
def LeavesFsm (st : Status) : Prop :=
  (st.fsm = .decoded ∧ st.result ∈ [ResultCode.ok, .exceptionReceived]) ∨
  (st.fsm = .retrying ∧ st.lastErr ≠ none) ∨
  (st.fsm = .failed ∧ st.result ∈ fatalCodes)

theorem successCode_mem (m : Msg) : successCode m ∈ [ResultCode.ok, .exceptionReceived] := by
  rw [successCode_eq]
  split <;> decide

theorem transportFailure_mem (tr : Transport) : transportFailure tr ∈ fatalCodes := by
  cases tr <;> decide

theorem accept_leavesFsm (m : Msg) (start len : Nat) (s : State) : LeavesFsm (accept m start len s).status :=
  .inl ⟨rfl, successCode_mem m⟩

theorem fatal_leavesFsm {code : ResultCode} (hc : code ∈ fatalCodes) (s : State) : LeavesFsm (fatal code s).status :=
  .inr (.inr ⟨rfl, hc⟩)

theorem notYet_leavesFsm (e : DecodeErr) (s : State) : LeavesFsm (notYet e s).status := by
  rcases notYet_cases e s with ⟨-, hn⟩ | ⟨-, hn⟩ <;> rw [hn]
  · exact fatal_leavesFsm (by decide) _
  · exact .inr (.inl ⟨rfl, nofun⟩)

theorem attempt_leavesFsm (s : State) : LeavesFsm (attempt s).status := by
  obtain ⟨tid, -, ⟨m, start, len, -, he⟩ | ⟨-, -, he⟩ | ⟨e, he⟩⟩ := attempt_cases s <;> rw [he]
  · exact accept_leavesFsm m start len _
  · exact fatal_leavesFsm (by decide) _
  · exact notYet_leavesFsm e _

theorem readStep_leavesFsm (h : readStep s = .next t) : LeavesFsm t.status := by
  obtain ⟨-, rfl⟩ := readStep_next h
  cases readAnswer s with
  | data bs => exact attempt_leavesFsm _
  | closed => exact fatal_leavesFsm (by decide) _
  | timedOut => exact fatal_leavesFsm (by decide) _
  | ioError => exact fatal_leavesFsm (transportFailure_mem _) _

/-- A command other than CLOSE changes FSM only by opening a connection or by starting an exchange (44_connection.md R220). -/
theorem Effect.fsm_of_ne {i : Instr} (h : Effect s i t) (hne : t.status.fsm ≠ s.status.fsm) :
    ((i = .openRtu ∨ i = .openTcp) ∧ s.status.isOpen = false ∧ t.status.fsm = .idle) ∨
    ((i = .awaitResponse ∨ i = .awaitRequest) ∧ s.status.isOpen = true ∧ t.status.fsm = .awaitingFrame) := by
  cases h with
  | opened _ hi ho => exact .inl ⟨hi, ho, rfl⟩
  | awaited _ hi ho => exact .inr ⟨hi, ho, rfl⟩
  | _ => exact absurd rfl hne

/-- During an exchange a host write leaves FSM, unless it is CLOSE (20_memory.md R66). -/
theorem hostWrite_fsm_of_busy {off : Nat} {v : Word} (hb : s.status.busy = true) (h : hostWrite off v s = .next t) :
    t.status.fsm = s.status.fsm ∨ t = closeConnection s := by
  rcases hostWrite_cases off v s with he | ⟨-, he⟩ | ⟨-, he⟩ | ⟨r, -, -, he⟩ | ⟨-, he⟩ <;> rw [he] at h
  · cases h; exact .inl rfl
  · cases h; rw [writeStatus_eq]; exact .inl rfl
  · cases h; exact .inl rfl
  · cases h; rw [writeReg_status]; exact .inl rfl
  · by_cases hv : v = closeWord
    · rw [hv, runCommand_of_decode decode_closeWord (.inr rfl)] at h
      cases h
      exact .inr rfl
    · rw [runCommand_of_busy hb hv] at h
      cases h
      exact .inl rfl

/-- CLOSE during an exchange aborts it with CONNECTION_CLOSED (44_connection.md R211). -/
theorem closeConnection_leavesFsm (hb : s.status.busy = true) : LeavesFsm (closeConnection s).status := by
  have hcode : ResultCode.connectionClosed ∈ fatalCodes := by decide
  rw [closeConnection_eq, hb]
  exact .inr (.inr ⟨rfl, hcode⟩)

/-- During an exchange only a read step, CLOSE or a reset changes FSM (44_connection.md R220). -/
theorem step_fsm_of_busy (hb : s.status.busy = true) (hs : step s = .next t) (hne : t.status.fsm ≠ s.status.fsm) :
    (s.resetNext ∧ t.status.fsm = .idle) ∨ LeavesFsm t.status := by
  rcases step_cases hs with ⟨u, -, -, hr⟩ | ⟨-, rfl | rfl⟩ | ⟨rest, hreset, rfl⟩ | ⟨off, rest, -, -, rfl⟩ | ⟨off, v, rest, -, -, hw⟩
  · exact .inr (readStep_leavesFsm hr)
  · exact absurd rfl hne
  · exact absurd rfl hne
  · exact .inl ⟨⟨rest, hreset⟩, rfl⟩
  · exact absurd rfl hne
  · obtain rfl := (hostWrite_fsm_of_busy (s := popTurn s) hb hw).resolve_left hne
    exact .inr (closeConnection_leavesFsm (s := popTurn s) hb)

/-- Without an exchange only reset, OPEN_*, CLOSE and AWAIT_* change FSM (44_connection.md R220). -/
theorem Move.fsm_of_not_busy (h : Move s t) (hb : s.status.busy = false) (hne : t.status.fsm ≠ s.status.fsm) :
    (s.resetNext ∧ t.status.fsm = .idle) ∨
    (t.status.fsm = .idle ∧ (s.presents .close ∨ (s.status.isOpen = false ∧ (s.presents .openRtu ∨ s.presents .openTcp)))) ∨
    (s.status.isOpen = true ∧ t.status.fsm = .awaitingFrame ∧ (s.presents .awaitResponse ∨ s.presents .awaitRequest)) := by
  cases h with
  | reset _ hreset => exact .inl ⟨hreset, rfl⟩
  | read _ hen _ => cases hb.symm.trans (engineEnabled_busy hen)
  | command i _ hp _ he =>
    rcases he.fsm_of_ne hne with ⟨hi, ho, hf⟩ | ⟨hi, ho, hf⟩
    · exact .inr (.inl ⟨hf, .inr ⟨ho, hp.either hi⟩⟩)
    · exact .inr (.inr ⟨ho, hf, hp.either hi⟩)
  | close ts hp => exact .inr (.inl ⟨by simp [closeConnection_eq, State.withScript, hb], .inl hp⟩)
  | _ => exact absurd rfl hne

/-- Settles O54: without BUSY by the command, during an exchange by how the step leaves FSM. -/
theorem fsmFollowsItsTransitions : Obligations.FsmFollowsItsTransitions := by
  intro s t hinv hs hne
  cases hb : s.status.busy with
  | false =>
    rcases (step_move hs).fsm_of_not_busy hb hne with hreset | ⟨hf, hp⟩ | ⟨ho, hf, hp⟩
    · exact .inl hreset
    · exact .inr (.inl ⟨rfl, hf, hp⟩)
    · exact .inr (.inr (.inl ⟨rfl, ho, hf, hp⟩))
  | true =>
    rcases step_fsm_of_busy hb hs hne with hreset | hdecoded | ⟨hf, herr⟩ | hfailed
    · exact .inl hreset
    · exact .inr (.inr (.inr (.inl ⟨rfl, hdecoded⟩)))
    · have hawaiting : s.status.fsm = .awaitingFrame :=
        (hinv.busyIffWaiting.mp hb).resolve_right fun hretrying => hne (hf.trans hretrying.symm)
      exact .inr (.inr (.inr (.inr (.inl ⟨rfl, hawaiting, hf, herr⟩))))
    · exact .inr (.inr (.inr (.inr (.inr ⟨rfl, hfailed⟩))))

/-! ### The read limit -/

/-- An exchange is running below an integer read limit that READS can reach, and only the engine moves (44_connection.md R239). -/
structure RunsAlone (s : State) (n : Nat) : Prop where
  inv : BlockInv s
  busy : s.status.busy = true
  limit : s.params.readLimit = some n
  reachable : n < 2 ^ 32
  noTurn : s.env.script = []
  answers : ∀ a ∈ s.env.readAnswers, a.wf = true

/-- An exchange in progress has a read left. -/
theorem RunsAlone.reads_lt {n : Nat} (h : RunsAlone s n) : s.reads.toNat < n := by
  rcases h.inv.busyIffWaiting.mp h.busy with hf | hf
  · obtain ⟨-, hreads, -⟩ := h.inv.awaitingFresh hf
    have hpos : 1 ≤ n := by
      have hwf := h.inv.paramsWf
      simp only [Params.wf, h.limit, Bool.and_eq_true, decide_eq_true_eq] at hwf
      exact hwf.1
    rw [hreads]
    exact hpos
  · obtain ⟨-, -, -, hl⟩ := h.inv.retryingFailed hf
    simpa [limitReached, h.limit] using hl

/-- A read step ends the exchange, or it has counted a read and the limit is not reached (44_connection.md R233, R234). -/
theorem ReadOutcome.ended_or_counted (h : ReadOutcome s t) :
    (t.status.busy = false ∧ t.status.done = true) ∨
    (t.status.busy = s.status.busy ∧ t.reads = bumpReads s.reads) := by
  cases h with
  | retrying => exact .inr ⟨rfl, rfl⟩
  | _ => exact .inl ⟨rfl, rfl⟩

theorem ReadOutcome.params_eq (h : ReadOutcome s t) : t.params = s.params := by
  cases h <;> rfl

/-- A step of an exchange left alone ends it, or counts one read and leaves it running. -/
theorem RunsAlone.step {n : Nat} (h : RunsAlone s n) :
    ∃ t, step s = .next t ∧
      ((t.status.busy = false ∧ t.status.done = true) ∨ (RunsAlone t n ∧ t.reads.toNat = s.reads.toNat + 1)) := by
  have hen : engineEnabled s.status = true := (engineEnabled_iff _).mpr ⟨h.busy, h.inv.busyIffWaiting.mp h.busy⟩
  have hstep : Machine.step s = .next (afterRead (readAnswer s) (chanRead s)) := by
    rw [step_of_no_turn h.noTurn, engineTurn_of_enabled hen, readStep_of_wf (readAnswer_wf h.answers)]
  refine ⟨_, hstep, ?_⟩
  have hout : ReadOutcome s (afterRead (readAnswer s) (chanRead s)) :=
    readStep_outcome (readStep_of_wf (readAnswer_wf h.answers))
  generalize afterRead (readAnswer s) (chanRead s) = t at hstep hout
  refine hout.ended_or_counted.imp_right fun ⟨hbusy, hreads⟩ => ⟨?_, ?_⟩
  · exact
      { inv := everyStepKeepsTheInvariant s t h.inv hstep
        busy := hbusy.trans h.busy
        limit := hout.params_eq ▸ h.limit
        reachable := h.reachable
        noTurn := hout.env_eq ▸ h.noTurn
        answers := fun a ha => h.answers a ((step_leaves hstep).readAnswers ha) }
  · have hlt := h.reads_lt
    have hreach := h.reachable
    rw [hreads, bumpReads_eq, if_pos (by omega)]
    bv_omega

theorem run_succ_of_step (h : step s = .next t) (k : Nat) :
    Host.Core.run Sys2Proof.core (k + 1) s = Host.Core.run Sys2Proof.core k t := by
  have hcore : Sys2Proof.core.step s = .next t := h
  simp only [Host.Core.run, hcore]

/-- An exchange left alone ends within the reads it has left, by induction on a bound of their number. -/
theorem RunsAlone.ends {n : Nat} (fuel : Nat) (h : RunsAlone s n) (hfuel : n ≤ s.reads.toNat + fuel) :
    ∃ (k : Nat) (t : State), s.reads.toNat + k ≤ n ∧ Host.Core.run Sys2Proof.core k s = .next t ∧
      t.status.busy = false ∧ t.status.done = true := by
  induction fuel generalizing s with
  | zero => exact absurd h.reads_lt (Nat.not_lt.mpr hfuel)
  | succ fuel ih =>
    obtain ⟨u, hu, hdone | ⟨hruns, hreads⟩⟩ := h.step
    · exact ⟨1, u, h.reads_lt, run_succ_of_step hu 0, hdone⟩
    · obtain ⟨k, t, hk, hrun, hdone⟩ := ih hruns (by omega)
      exact ⟨k + 1, t, by omega, (run_succ_of_step hu k).trans hrun, hdone⟩

/-- Settles O55: at most `n` reads are left, and each step counts one or ends the exchange. -/
theorem exchangesEndAtTheReadLimit : Obligations.ExchangesEndAtTheReadLimit := by
  intro s n hinv hb hl hn hs ha
  exact RunsAlone.ends n ⟨hinv, hb, hl, hn, hs, List.all_eq_true.mp ha⟩ (Nat.le_add_left _ _)

end Sys2Proof.Machine
end

section
/-! PROOFS. The order of the checks of one decode (60_exceptions.md R273): the trailer's checks come before the body's, and in a body the
exception predicate before the shape class, whose decoder answers a message of its own kind or MALFORMED. -/

namespace Sys2Proof.Machine

/-! ### What a decoder can answer -/

/-- A decoder past the unrecognised codes answers a message of one kind or MALFORMED (R273, checks 4 and 6). -/
def AnswersKindOrMalformed (k : MsgKind) (r : Except DecodeErr Msg) : Prop :=
  (∃ m, r = .ok m ∧ m.kind = k) ∨ r = .error .malformed

theorem answersKindOrMalformed_of_eq_ite {r : Except DecodeErr Msg} {c : Prop} [Decidable c] {m : Msg}
    (h : r = if c then .ok m else .error .malformed) : AnswersKindOrMalformed m.kind r := by
  by_cases hc : c
  · exact .inl ⟨m, h.trans (if_pos hc), rfl⟩
  · exact .inr (h.trans (if_neg hc))

theorem decodeExcBody_eq (b : List Byte) : decodeExcBody b =
    if b.length = 3 ∧ knownErr (byteAt b 2) = true then
      .ok { kind := .exception, sid := byteAt b 0, fc := byteAt b 1 &&& 0x7F#8, err := byteAt b 2 }
    else .error .malformed := by
  simp only [decodeExcBody, ite_and, ne_eq, ite_not, ← Bool.not_eq_true]

theorem decodeExcBody_answers (b : List Byte) : AnswersKindOrMalformed .exception (decodeExcBody b) :=
  answersKindOrMalformed_of_eq_ite (decodeExcBody_eq b)

theorem decodeSingle_answers (b : List Byte) (role : Role) : AnswersKindOrMalformed role.kind (decodeSingle b role) := by
  by_cases hfits : b.length = 6 ∧ singleCell (byteAt b 1) (rdBe16 b 4) ≠ none
  · obtain ⟨v, hv⟩ := Option.ne_none_iff_exists'.mp hfits.2
    exact .inl ⟨_, decodeSingle_of_cell hfits.1 hv role, rfl⟩
  · exact .inr (decodeSingle_of_not hfits role)

theorem decodeShape_answers {sh : Shape} (hsh : sh ≠ .none) (b : List Byte) (role : Role) :
    AnswersKindOrMalformed role.kind (decodeShape sh b role) := by
  cases sh with
  | read =>
    cases role with
    | request => exact answersKindOrMalformed_of_eq_ite (decodeReadReq_eq b)
    | response => exact answersKindOrMalformed_of_eq_ite (decodeReadRsp_eq b)
  | wsingle => exact decodeSingle_answers b role
  | wmulti =>
    cases role with
    | request => exact answersKindOrMalformed_of_eq_ite (decodeMultiReq_eq b)
    | response => exact answersKindOrMalformed_of_eq_ite (decodeMultiRsp_eq b)
  | diag => exact answersKindOrMalformed_of_eq_ite (decodeDiag_eq b role)
  | none => exact absurd rfl hsh

/-! ### The checks in order -/

theorem shape_eq_none_iff (fc : Byte) :
    shape fc = .none ↔ fc ∉ [0x01#8, 0x02#8, 0x03#8, 0x04#8, 0x05#8, 0x06#8, 0x08#8, 0x0F#8, 0x10#8] := by
  revert fc
  decide

theorem isExc_iff (b : List Byte) : isExc b = true ↔ 3 ≤ b.length ∧ (byteAt b 1).getLsbD 7 = true := by
  simp only [isExc, Bool.and_eq_true, decide_eq_true_eq]

theorem decodeBody_of_short {b : List Byte} (h : b.length < 2) (role : Role) : decodeBody b role = .error .malformed := if_pos h

theorem decodeBody_of_unrecognised {b : List Byte} {role : Role} (hlen : 2 ≤ b.length)
    (hexc : ¬ (3 ≤ b.length ∧ (byteAt b 1).getLsbD 7 = true ∧ role = .response)) (hsh : shape (byteAt b 1) = .none) :
    decodeBody b role = .error .unknownFunction := by
  have hexc' : ¬ (role = .response ∧ isExc b = true) := fun ⟨hrole, hb⟩ =>
    have ⟨h3, hmsb⟩ := (isExc_iff b).mp hb
    hexc ⟨h3, hmsb, hrole⟩
  rw [decodeBody_eq_decodeShape hlen hexc', hsh]
  rfl

theorem decodeBody_of_recognised {b : List Byte} (hsh : shape (byteAt b 1) ≠ .none) (role : Role) :
    AnswersKindOrMalformed role.kind (decodeBody b role) := by
  rw [decodeBody_of_shape rfl hsh]
  exact decodeShape_answers hsh b role

theorem Role.kind_ne_exception (role : Role) : role.kind ≠ .exception := by cases role <;> nofun

theorem crcCheck_iff (f : List Byte) : crcCheck f = true ↔ crc16 (f.take (f.length - 2)) = rdLe16 f (f.length - 2) := beq_iff_eq

theorem decodeFrame_verified {buf : List Byte} (hlen : 2 ≤ buf.length) (role : Role) : decodeFrame buf true role =
    if crc16 (buf.take (buf.length - 2)) = rdLe16 buf (buf.length - 2) then decodeBody (buf.take (buf.length - 2)) role
    else .error .invalidCrc := by
  simp only [decodeFrame, if_true, if_neg (Nat.not_lt.mpr hlen), ← Bool.not_eq_true, crcCheck_iff, ite_not]

/-- Settles O34: each check is reached past the earlier ones, and a decoder past them all answers its kind or MALFORMED. -/
theorem decodeErrorsFollowThePriority : Obligations.DecodeErrorsFollowThePriority := by
  refine fun buf role => ⟨fun hshort => if_pos hshort, fun hlen hcrc => (decodeFrame_verified hlen role).trans (if_neg hcrc),
    fun hlen hcrc => (decodeFrame_verified hlen role).trans (if_pos hcrc), decodeFrame_unverified buf role,
    fun hshort => decodeBody_of_short hshort role, fun h3 hmsb hrole => ?_,
    fun hlen hexc hfc => decodeBody_of_unrecognised hlen hexc ((shape_eq_none_iff _).mpr hfc), fun _ hfc => ?_⟩
  · rw [hrole, decodeBody_of_msb h3 hmsb]
    exact decodeExcBody_answers buf
  · have hsh : shape (byteAt buf 1) ≠ .none := fun hnone => (shape_eq_none_iff _).mp hnone hfc
    refine (decodeBody_of_recognised hsh role).imp_left fun ⟨m, hm, hkind⟩ => ⟨m, hm, ?_⟩
    exact hkind ▸ role.kind_ne_exception

end Sys2Proof.Machine
end

section
/-! PROOFS. The parameters under every step, and the reset action (70_reset_and_hazards.md R290, R294). -/

namespace Sys2Proof.Machine

variable {s t : State}

theorem Effect.params_eq {i : Instr} (h : Effect s i t) : t.params = s.params := by
  cases h <;> rfl

theorem Move.params_eq (h : Move s t) : t.params = s.params := by
  cases h with
  | read _ _ ho => exact ho.params_eq
  | command _ _ _ _ he => exact he.params_eq
  | close => rw [closeConnection_eq]; rfl
  | quiet | reset | register | illegal => rfl

/-- Settles O21: of the moves of a step, reset carries the parameters over and none of the others writes them. -/
theorem parametersNeverChange : Obligations.ParametersNeverChange :=
  fun _ _ hs => (step_move hs).params_eq

theorem step_of_reset_turn {rest : List Turn} (hs : s.env.script = .reset :: rest) :
    step s = .next (resetAction (s.withScript rest)) := by
  simp only [step, takeTurn, hs, popTurn_eq_withScript, List.tail_cons]

/-- Settles O17: the step of a reset turn is `resetAction`, whose reset values are the ones written out. -/
theorem resetRestoresEveryElementInOneStep : Obligations.ResetRestoresEveryElementInOneStep :=
  fun _ _ hs => step_of_reset_turn hs

end Sys2Proof.Machine
end
